-- ==== Sys2Proof/Word.lean ====
section
/-! DEFINITION. The machine words of CWFE (R9, R62): 32-bit bus and command words, 16-bit samples and
offsets, 64-bit sums. Values are plain bit vectors; a rule that reads one as a signed integer says so
(`BitVec.toInt`, the `s16`, `s32` and `s64` of R11), the others read it as unsigned (`BitVec.toNat`). -/

namespace Sys2Proof

/-- A bus word, a command word, a kernel coefficient or a magnitude (R9, R62, R90). -/
abbrev Word := BitVec 32

/-- A sample (R9) or a byte offset within the register window (R60). -/
abbrev Half := BitVec 16

/-- A convolution partial sum or a bin sum (R9). -/
abbrev Dword := BitVec 64

end Sys2Proof
end

