-- ==== Sys2Proof/Machine/Arith.lean ====
section
/-! DEFINITION. The arithmetic primitives of R11 and the finite sums and searches the rules use. Sums are
exact, on unbounded integers (R10); every narrowing is one of the functions here. -/

namespace Sys2Proof.Machine

/-- `rnd_hu(v, k) = floor((v + 2^(k-1)) / 2^k)` (R11): to nearest, ties toward plus infinity. -/
def rndHu (v : Int) (k : Nat) : Int := (v + 2 ^ (k - 1)) / 2 ^ k

/-- `sat16` (R11). -/
def sat16 (v : Int) : Int := min 32767 (max (-32768) v)

/-- `satu(v, N)` for v ≥ 0 (R11). -/
def satu (v n : Nat) : Nat := min (2 ^ n - 1) v

/-- `wrap64(v)` (R11): the w in [-2^63, 2^63 - 1] with w ≡ v (mod 2^64). -/
def wrap64 (v : Int) : Int := Int.bmod v (2 ^ 64)

/-- Bits `n - 1` down to 0 of an integer square root: `r` is the part already found. -/
def isqrtBits (v : Nat) : Nat → Nat → Nat
  | 0, r => r
  | n + 1, r => isqrtBits v n (if (r + 2 ^ n) * (r + 2 ^ n) ≤ v then r + 2 ^ n else r)

/-- `isqrt(v)` (R11): the largest r with r × r ≤ v. -/
def isqrt (v : Nat) : Nat := isqrtBits v (Nat.log2 v / 2 + 1) 0

/-- The sum of `f i` over `0 ≤ i < n`. -/
def sumTo (f : Nat → Int) : Nat → Int
  | 0 => 0
  | n + 1 => sumTo f n + f n

/-- Some `i` with `k ≤ i < k + n` has `p i`. -/
def anyFrom (p : Nat → Bool) : Nat → Nat → Bool
  | 0, _ => false
  | n + 1, k => p k || anyFrom p n (k + 1)

/-- The search loop of R158 over `k = 1, …, n`: a later index wins only when its value is greater. -/
def argmaxTo (f : Nat → Nat) : Nat → Nat
  | 0 => 0
  | n + 1 => if f (n + 1) > f (argmaxTo f n) then n + 1 else argmaxTo f n

theorem argmaxTo_le (f : Nat → Nat) (n : Nat) : argmaxTo f n ≤ n := by
  induction n with
  | zero => exact Nat.le_refl 0
  | succ n ih => simp only [argmaxTo]; split <;> omega

end Sys2Proof.Machine
end

