-- ==== Sys2Proof/Config.lean ====
section
/-! DEFINITION. What the build fixes (R7) and the values the spec leaves open. An open value is an
opaque constant: Lean knows nothing of it but its type, so a claim proved about the model holds
whatever value the hardware gives it. Free values that may differ from use to use take the number of the
draw as an argument (`Env.drawNo` counts the draws). -/

namespace Sys2Proof.Config

/-- `BLOCK_N`, the samples of a block (R7, R38). Build range 2 to 1024; this hardware takes 441. -/
abbrev blockN : Nat := 441

/-- `NBINS`, the retained spectrum bins (R7, R150): floor(BLOCK_N / 2). -/
abbrev nbins : Nat := 220

/-- `KMAX`, the most kernel taps (R7, R38). Build range odd, 1 to 1023; this hardware takes 1023. -/
abbrev kmax : Nat := 1023

/-- `RMAX`, the remainder entries (R7): KMAX - 1. -/
abbrev rmax : Nat := 1022

/-- `ID_VALUE`, ASCII "CWF1" (R7, R22). -/
def idValue : Word := 0x43574631#32

/-- `CWFE_BASE`, the system address of the register window (R7, R61): OPEN, a parameter of the platform. -/
opaque cwfeBase : Nat

/-- `CMD_LATENCY` (R7, R262): how many steps pass between the acceptance of a command and its engine
step. Finite, with no bound stated; drawn anew at each acceptance. -/
opaque cmdLatency : Nat → Nat

/-- The word a host read returns for a memory entry in the write set of the command in flight
(R251 (b), U2), drawn at each such read. -/
opaque busyWord : Nat → Word

/-- The value of a host-program name that no read or assignment has bound: R98 gives none (log 22). -/
opaque unboundName : List Char → Int

/-- The unspecified contents of `KMEM[i]` after the reset with a given draw number (R51, U1). -/
opaque kmemAtReset : Nat → Nat → Word

/-- The unspecified contents of `KACT[i]` after reset (R51, U1). -/
opaque kactAtReset : Nat → Nat → Word

/-- The unspecified contents of `IBUF[i]` after reset (R51, U1). -/
opaque ibufAtReset : Nat → Nat → Half

/-- The unspecified contents of `OBUF[i]` after reset (R51, U1). -/
opaque obufAtReset : Nat → Nat → Half

/-- The unspecified contents of `SPEC[k]` after reset (R51, U1). -/
opaque specAtReset : Nat → Nat → Word

end Sys2Proof.Config
end

