-- ==== Sys2Proof/Machine/Tabulate.lean ====
section
/-! DEFINITION. Building a block memory element by element. -/

namespace Sys2Proof.Machine

/-- `f k, f (k+1), …`, `n` elements. -/
def listFrom {α : Type} (f : Nat → α) : Nat → Nat → List α
  | 0, _ => []
  | n + 1, k => f k :: listFrom f n (k + 1)

theorem length_listFrom {α : Type} (f : Nat → α) (n k : Nat) : (listFrom f n k).length = n := by
  induction n generalizing k with
  | zero => rfl
  | succ n ih => simp [listFrom, ih]

/-- The memory whose element `i` is `f i`. -/
def tabulate {α : Type} (n : Nat) (f : Nat → α) : Vector α n := ⟨⟨listFrom f n 0⟩, length_listFrom f n 0⟩

end Sys2Proof.Machine
end

