-- ==== Sys2Proof/Machine/State.lean ====
section
/-! DEFINITION. The state of CWFE (R20 to R51): registers, flags and block memories as plain data, the
host's side of the bus as lists the step reads, and the state after reset (R50, R240, R243). -/

namespace Sys2Proof.Machine

/-- The error codes of R201. Codes 10 to 255 are never raised and have no name. -/
inductive ErrCode
  /-- 0: no error since reset. -/
  | none
  /-- 1: the accepted word does not decode. -/
  | illegal
  /-- 2: KCOMMIT with KLEN 0, even or above KMAX. -/
  | badklen
  /-- 3: FILT without a committed kernel. -/
  | nokernel
  /-- 4: SPEC without a filtered block. -/
  | noobuf
  /-- 5: ACCUM or CLS SPEC without a spectrum. -/
  | nospec
  /-- 6: DOMSEL on an empty analysis window. -/
  | nodata
  /-- 7: CLS SPEC without a dominant bin. -/
  | nodom
  /-- 8: DOMSET with a bin that is not retained. -/
  | badbin
  /-- 9: reserved for an inexact transform, never raised by CWFE-1 (R138). -/
  | numeric
  deriving DecidableEq, Repr

/-- The STATUS flags (R24). Bits 31:11 are reserved, read 0 and ignore writes, and so hold no state. -/
structure Status where
  busy : Bool
  done : Bool
  err : Bool
  haz : Bool
  sat : Bool
  asat : Bool
  kvalid : Bool
  obufv : Bool
  specv : Bool
  domv : Bool
  clsres : Bool
  deriving DecidableEq, Repr

/-- Every STATUS bit is 0 after reset (R50). -/
def Status.reset : Status :=
  { busy := false, done := false, err := false, haz := false, sat := false, asat := false,
    kvalid := false, obufv := false, specv := false, domv := false, clsres := false }

/-- The interrupt enables of IE (R26). -/
structure IntEnable where
  doneIe : Bool
  errIe : Bool
  hazIe : Bool
  deriving DecidableEq, Repr

/-- Every enable is 0 after reset (R50). -/
def IntEnable.reset : IntEnable := { doneIe := false, errIe := false, hazIe := false }

/-- A name of the host's program, which a read binds to its result (R98). -/
abbrev HostName := List Char

/-- The expressions of a host program (R98), with the operations of R11 on unbounded integers. -/
inductive HostExpr
  | num (n : Int)
  /-- The value of a name: the result of an earlier read, or the variable of a `for`. -/
  | name (n : HostName)
  | neg (a : HostExpr)
  | add (a b : HostExpr)
  | sub (a b : HostExpr)
  | mul (a b : HostExpr)
  /-- `floor(a / b)`, for a positive `b` (log 19). -/
  | div (a b : HostExpr)
  /-- `a mod b`, for a positive `b` (log 19). -/
  | mod (a b : HostExpr)
  /-- The field `a[hi:lo]`. -/
  | bits (a : HostExpr) (hi lo : Nat)
  /-- `{a, b}` with `b` of 32 bits. -/
  | pair (a b : HostExpr)
  /-- An entry of a table the host holds; 0 past its end. -/
  | entry (table : List Int) (i : HostExpr)
  deriving DecidableEq, Repr

/-- What the host does next (R62, R98, R70): a bus read or write of one word at a byte offset, a calculation of
its own, or a wait. -/
inductive HostOp
  /-- `<name> = MemRead(off, 4)`. -/
  | read (off : HostExpr) (name : HostName)
  /-- `MemWrite(off, 4, v)`. -/
  | write (off v : HostExpr)
  /-- `<name> = v`, without a transaction. -/
  | assign (name : HostName) (v : HostExpr)
  /-- The `wait` loop of R98: `rd STATUS -> s` until `s[0] == 0`. -/
  | wait
  /-- Wait, without a transaction, until the irq line is 1 (R70, program P5 of the test vectors). -/
  | waitIrq
  deriving DecidableEq, Repr

/-- A completed transaction, `bus_ack` = 1 (R60): a read with its `bus_rdata`, or a write. -/
inductive BusResult
  | read (data : Word)
  | written
  deriving DecidableEq, Repr

/-- The model's own fields: what stands outside the block, and the schedule. -/
structure Env where
  /-- The host's operations still to come, the next one first (R69: the bus orders them totally). -/
  hostQ : List HostOp
  /-- The values of the host's names (R98), the newest first, each name at most once. -/
  names : List (HostName × Int)
  /-- The level of `rst_n` during each step to come, the next one first; high when the list is used up. -/
  rstQ : List Bool
  /-- The transaction the last step completed, if it completed one. -/
  busOut : Option BusResult
  /-- How many steps are still to pass before the engine step of the command in flight (R115, R262). -/
  engineWait : Nat
  /-- The number of the next draw of a free value. -/
  drawNo : Nat
  deriving DecidableEq, Repr

/-- The state. KACTLEN and DOM are held by their ranges: KACTLEN ≤ KMAX (R32, R117), DOM < NBINS (R33). -/
structure State where
  /-- STATUS (R24). -/
  status : Status
  /-- IE (R26). -/
  ie : IntEnable
  /-- CMD_LAST, the last accepted command word (R28). -/
  cmdLast : Word
  /-- ERRCODE (R29). -/
  errcode : ErrCode
  /-- ERRCMD (R30). -/
  errcmd : Word
  /-- KLEN (R31). -/
  klen : Half
  /-- KACTLEN (R32). -/
  kactlen : Fin (Config.kmax + 1)
  /-- DOM (R33). -/
  dom : Fin Config.nbins
  /-- BLKCNT (R34). -/
  blkcnt : Word
  /-- XIN (R35). -/
  xin : Word
  /-- CA_LO, CA_HI, CB_LO, CB_HI, CC_LO, CC_HI (R36). -/
  caLo : Word
  caHi : Word
  cbLo : Word
  cbHi : Word
  ccLo : Word
  ccHi : Word
  /-- CLSHIST (R37). -/
  clshist : Word
  /-- KMEM, the staged kernel, s32 (R40). -/
  kmem : Vector Word Config.kmax
  /-- KACT, the active kernel, s32, hidden from the host (R41). -/
  kact : Vector Word Config.kmax
  /-- REM, the overlap carry, s64 (R42). -/
  rem : Vector Dword Config.rmax
  /-- IBUF, the input block, s16 (R43). -/
  ibuf : Vector Half Config.blockN
  /-- OBUF, the filtered block, s16 (R44). -/
  obuf : Vector Half Config.blockN
  /-- SPEC, the magnitude spectrum, u32 (R45). -/
  spec : Vector Word Config.nbins
  /-- ACC, the bin sums, u64 (R46). -/
  acc : Vector Dword Config.nbins
  /-- The model's own fields. -/
  env : Env
  deriving DecidableEq, Repr

/-- A step never stops the machine with a fault: CWFE's only exception is the command error, which is a
next state (R200, R202), and a bus access never raises one (R64, R200). The type has no value. -/
inductive Fault
  deriving DecidableEq, Repr

/-- The model gives no meaning. -/
inductive Refusal
  /-- Raised by an arm of `exec` whose instruction has no meaning yet; safe. No arm raises it now. -/
  | notModelled (mnemonic : String)
  deriving DecidableEq, Repr

/-- The reset state (R50, R243) with a given draw for the unspecified memories (R51) and given values
of the model's own fields. -/
def State.atReset (draw : Nat) (e : Env) : State :=
  { status := Status.reset
    ie := IntEnable.reset
    cmdLast := 0#32
    errcode := ErrCode.none
    errcmd := 0#32
    klen := 0#16
    kactlen := ⟨0, by decide⟩
    dom := ⟨0, by decide⟩
    blkcnt := 0#32
    xin := 0#32
    caLo := 0#32
    caHi := 0#32
    cbLo := 0#32
    cbHi := 0#32
    ccLo := 0#32
    ccHi := 0#32
    clshist := 0#32
    kmem := tabulate Config.kmax (Config.kmemAtReset draw)
    kact := tabulate Config.kmax (Config.kactAtReset draw)
    rem := Vector.replicate Config.rmax 0#64
    ibuf := tabulate Config.blockN (Config.ibufAtReset draw)
    obuf := tabulate Config.blockN (Config.obufAtReset draw)
    spec := tabulate Config.nbins (Config.specAtReset draw)
    acc := Vector.replicate Config.nbins 0#64
    env := e }

/-- The machine right after its first reset: no host operation pending, `rst_n` high, and draw 0 used for
the unspecified memories. -/
def State.reset : State :=
  State.atReset 0 { hostQ := [], names := [], rstQ := [], busOut := none, engineWait := 0, drawNo := 1 }

end Sys2Proof.Machine
end

