-- ==== Sys2Proof/Machine/Flags.lean ====
section
/-! DEFINITION. The STATUS and IE words (R24, R26), the W1C write (R25), the irq output (R27), the modes
(R21), and the conditions under which a command sets SAT (R132, R134) or ASAT (R156). -/

namespace Sys2Proof.Machine

/-- A one-bit field at bit `n` of a word. -/
def flagBit (b : Bool) (n : Nat) : Word := if b then BitVec.twoPow 32 n else 0#32

/-- The STATUS word a host read returns (R24); reserved bits read 0 (R39). -/
def Status.word (f : Status) : Word :=
  flagBit f.busy 0 ||| flagBit f.done 1 ||| flagBit f.err 2 ||| flagBit f.haz 3 ||| flagBit f.sat 4 |||
  flagBit f.asat 5 ||| flagBit f.kvalid 6 ||| flagBit f.obufv 7 ||| flagBit f.specv 8 |||
  flagBit f.domv 9 ||| flagBit f.clsres 10

/-- The effect of a host write of `v` to STATUS on the flags (R25): writing 1 clears a W1C bit. -/
def Status.w1c (f : Status) (v : Word) : Status :=
  { f with
    done := f.done && !v.getLsbD 1
    err := f.err && !v.getLsbD 2
    haz := f.haz && !v.getLsbD 3
    sat := f.sat && !v.getLsbD 4
    asat := f.asat && !v.getLsbD 5 }

/-- The IE word a host read returns (R26). -/
def IntEnable.word (e : IntEnable) : Word := flagBit e.doneIe 0 ||| flagBit e.errIe 1 ||| flagBit e.hazIe 2

/-- The enables a host write of `v` to IE leaves (R26). -/
def IntEnable.ofWord (v : Word) : IntEnable :=
  { doneIe := v.getLsbD 0, errIe := v.getLsbD 1, hazIe := v.getLsbD 2 }

/-- The output `irq` (R27). -/
def State.irq (s : State) : Bool :=
  (s.status.done && s.ie.doneIe) || (s.status.err && s.ie.errIe) || (s.status.haz && s.ie.hazIe)

/-- The modes of R21. -/
inductive Mode
  | idle
  | busy
  | halted
  deriving DecidableEq, Repr

/-- The mode (R21). -/
def State.mode (s : State) : Mode :=
  if s.status.busy then .busy else if s.status.err then .halted else .idle

/-- The code number of an error (R201), as ERRCODE.CODE reads (R29). -/
def ErrCode.code : ErrCode → BitVec 8
  | .none => 0#8
  | .illegal => 1#8
  | .badklen => 2#8
  | .nokernel => 3#8
  | .noobuf => 4#8
  | .nospec => 5#8
  | .nodata => 6#8
  | .nodom => 7#8
  | .badbin => 8#8
  | .numeric => 9#8

/-- A rounded output lies outside the s16 range (R132, R134). -/
def outOfRange16 (v : Int) : Bool := decide (v < -32768) || decide (32767 < v)

/-- An exact bin sum does not fit u64 (R156). -/
def overflows64 (v : Nat) : Bool := decide (2 ^ 64 - 1 < v)

end Sys2Proof.Machine
end

