-- ==== Sys2Proof/Machine/Operands.lean ====
section
/-! DEFINITION. The operands of the commands, read from the state as the integers the rules compute with
(R9, R11). An element index past the end of a memory reads as 0 here; no command asks for one. -/

namespace Sys2Proof.Machine

/-- `h[i] = KACT[i]`, a Q2.30 coefficient (R131). -/
def State.tap (s : State) (i : Nat) : Int := (s.kact[i]?.getD 0#32).toInt

/-- `x[j] = IBUF[j]` (R131). -/
def State.sample (s : State) (j : Nat) : Int := (s.ibuf[j]?.getD 0#16).toInt

/-- `REM[j]` (R132). -/
def State.carry (s : State) (j : Nat) : Int := (s.rem[j]?.getD 0#64).toInt

/-- `y[x] = OBUF[x]` (R154). -/
def State.filtered (s : State) (x : Nat) : Int := (s.obuf[x]?.getD 0#16).toInt

/-- `ACC[k]` (R158). -/
def State.binSum (s : State) (k : Nat) : Nat := (s.acc[k]?.getD 0#64).toNat

/-- `s64({hi, lo})` (R36). -/
def coefficient (hi lo : Word) : Int := (hi ++ lo : Dword).toInt

/-- CA (R36). -/
def State.ca (s : State) : Int := coefficient s.caHi s.caLo

/-- CB (R36). -/
def State.cb (s : State) : Int := coefficient s.cbHi s.cbLo

/-- CC (R36). -/
def State.cc (s : State) : Int := coefficient s.ccHi s.ccLo

/-- The staged kernel length KCOMMIT refuses (R117): 0, even, or greater than KMAX. -/
abbrev BadLength (k : Nat) : Prop := k = 0 ∨ k % 2 = 0 ∨ Config.kmax < k

theorem lt_of_not_badLength {k : Nat} (h : ¬ BadLength k) : k < Config.kmax + 1 := by
  simp only [BadLength, not_or] at h; omega

end Sys2Proof.Machine
end

