-- ==== Sys2Proof/Syntax.lean ====
section
/-! DEFINITION. The ten commands of CWFE-1 (R93), one constructor per row of the opcode table. -/

namespace Sys2Proof

/-- The comparator's input, `SRC = IMM16[0]` of a CLS word (R92): 0 selects XIN, 1 selects SPEC[DOM]. -/
inductive ClsSrc
  | xin
  | spec
  deriving DecidableEq, Repr

/-- A command (R93). DOMSET's operand is the bin number, a plain number as a programmer writes it (R97);
`Instr.wellFormed` says which numbers the IMM16 field can hold. -/
inductive Instr
  /-- NOP (R116). -/
  | nop
  /-- KCOMMIT: latch the staged kernel (R117). -/
  | kcommit
  /-- RCLR: clear the remainder (R118). -/
  | rclr
  /-- FILT: filter one block (R132). -/
  | filt
  /-- SPEC: the magnitude spectrum of the filtered block (R154). -/
  | spec
  /-- ACCUM: add the spectrum to the bin sums (R156). -/
  | accum
  /-- ACLR: start a new analysis window (R157). -/
  | aclr
  /-- DOMSEL: select the dominant bin (R158). -/
  | domsel
  /-- DOMSET: set the dominant bin (R159). -/
  | domset (bin : Nat)
  /-- CLS: classify one sample (R182). -/
  | cls (src : ClsSrc)
  deriving DecidableEq, Repr

/-- The command's mnemonic in the opcode table (R93). -/
def Instr.mnemonic : Instr → String
  | .nop => "NOP"
  | .kcommit => "KCOMMIT"
  | .rclr => "RCLR"
  | .filt => "FILT"
  | .spec => "SPEC"
  | .accum => "ACCUM"
  | .aclr => "ACLR"
  | .domsel => "DOMSEL"
  | .domset _ => "DOMSET"
  | .cls _ => "CLS"

end Sys2Proof
end

