-- ==== Sys2Proof/Machine/Ops.lean ====
section
/-! DEFINITION. The operations the meanings share: the checks (R112, R204), completion (R114), error entry (R202) and error return
(R205), acceptance and dropping of a command (R111), the host's STATUS write (R25), and reset (R240, R241). -/

namespace Sys2Proof.Machine

/-- `complete` (R114): the mode becomes IDLE; ERR, ERRCODE and ERRCMD are unchanged. -/
def complete (s : State) : State :=
  { s with status := { s.status with busy := false, done := true } }

/-- Error entry, `raise CmdError(code)` (R202): the one place a command error is taken. -/
def raiseError (c : ErrCode) (s : State) : State :=
  { s with
    errcode := c
    errcmd := s.cmdLast
    status := { s.status with err := true, busy := false, done := true } }

/-- The first of a command's own checks that fails, in the order of R204, with its error (R112). -/
def failedCheck (i : Instr) (s : State) : Option ErrCode :=
  match i with
  | .nop => none
  | .kcommit => if BadLength s.klen.toNat then some .badklen else none
  | .rclr => none
  | .filt => if s.status.kvalid then none else some .nokernel
  | .spec => if s.status.obufv then none else some .noobuf
  | .accum => if s.status.specv then none else some .nospec
  | .aclr => none
  | .domsel => if s.blkcnt = 0#32 then some .nodata else none
  | .domset bin => if bin < Config.nbins then none else some .badbin
  | .cls .xin => none
  | .cls .spec =>
    if s.status.domv then (if s.status.specv then none else some .nospec) else some .nodom

/-- A host write of `v` to STATUS (R25). With bit 2 set it is the error return (R205, R206): ERR is
cleared, ERRCODE and ERRCMD keep their values. -/
def writeStatus (v : Word) (s : State) : State := { s with status := s.status.w1c v }

/-- A dropped host write (R67, R111): HAZ is set and nothing else changes. -/
def dropWrite (s : State) : State := { s with status := { s.status with haz := true } }

/-- Acceptance of a command word in mode IDLE (R111). The latency of the command is drawn here (R262). -/
def accept (w : Word) (s : State) : State :=
  { s with
    cmdLast := w
    status := { s.status with busy := true, done := false }
    env := { s.env with engineWait := Config.cmdLatency s.env.drawNo, drawNo := s.env.drawNo + 1 } }

/-- A host write of `w` to CMD (R28, R111): accepted in mode IDLE, dropped otherwise. It does not decode. -/
def writeCmd (w : Word) (s : State) : State :=
  if s.status.busy = false ∧ s.status.err = false then accept w s else dropWrite s

/-- Hard or soft reset (R240, R241): every piece of the block's state takes its reset value, a command in
flight is abandoned, and the unspecified memories are drawn anew (R51). The host's operations stay. -/
def resetBlock (s : State) : State :=
  State.atReset s.env.drawNo { s.env with engineWait := 0, drawNo := s.env.drawNo + 1 }

/-- The level of `rst_n` during the coming step (R60): high when the list of levels is used up. -/
def State.rstHigh (s : State) : Bool := s.env.rstQ.headD true

/-- The start of a step: its `rst_n` level is used up and no transaction has completed in it. -/
def beginStep (s : State) : State := { s with env := { s.env with rstQ := s.env.rstQ.tail, busOut := none } }

end Sys2Proof.Machine
end

