-- ==== Sys2Proof/Machine/Classifier.lean ====
section
/-! DEFINITION. CLS, the threshold comparator (R180 to R182). -/

namespace Sys2Proof.Machine

/-- The discriminant `Dq(x) = CA * x * x + CB * x + CC`, exact (R181). -/
def State.discriminant (s : State) (x : Int) : Int := s.ca * x * x + s.cb * x + s.cc

/-- `decide(x)` (R181): strictly greater than 0. -/
def State.decides (s : State) (x : Int) : Bool := decide (s.discriminant x > 0)

/-- `(CLSHIST * 2 + res) mod 2^32` (R182). -/
def shiftedHistory (hist : Word) (res : Bool) : Word := BitVec.ofNat 32 (hist.toNat * 2 + res.toNat)

/-- The successful part of CLS on the sample `x` (R182). -/
def classify (x : Word) (s : State) : State :=
  complete
    { s with
      clshist := shiftedHistory s.clshist (s.decides x.toNat)
      status := { s.status with clsres := s.decides x.toNat } }

/-- CLS (R182). With SRC = 1, NODOM is checked before NOSPEC (R204). -/
def execCls (src : ClsSrc) (s : State) : Host.Outcome State Fault Refusal :=
  match src with
  | .xin => .next (classify s.xin s)
  | .spec =>
    if s.status.domv = false then .next (raiseError .nodom s)
    else if s.status.specv = false then .next (raiseError .nospec s)
    else .next (classify s.spec[s.dom] s)

end Sys2Proof.Machine
end

