-- ==== Sys2Proof/Machine/Control.lean ====
section
/-! DEFINITION. The control commands NOP, KCOMMIT and RCLR (R116 to R118). -/

namespace Sys2Proof.Machine

/-- REM with every entry 0 (R117, R118). -/
def clearedRem : Vector Dword Config.rmax := Vector.replicate Config.rmax 0#64

/-- KACT after the commit of `k` taps (R117): `KACT[i] <- KMEM[i]` for i < k, stale values above. -/
def committedKernel (k : Nat) (s : State) : Vector Word Config.kmax :=
  tabulate Config.kmax fun i => if i < k then s.kmem[i]?.getD 0#32 else s.kact[i]?.getD 0#32

/-- NOP (R116). -/
def execNop (s : State) : Host.Outcome State Fault Refusal := .next (complete s)

/-- KCOMMIT (R117). -/
def execKcommit (s : State) : Host.Outcome State Fault Refusal :=
  if h : BadLength s.klen.toNat then .next (raiseError .badklen s)
  else
    .next (complete
      { s with
        kact := committedKernel s.klen.toNat s
        kactlen := ⟨s.klen.toNat, lt_of_not_badLength h⟩
        rem := clearedRem
        status := { s.status with kvalid := true } })

/-- RCLR (R118). -/
def execRclr (s : State) : Host.Outcome State Fault Refusal := .next (complete { s with rem := clearedRem })

end Sys2Proof.Machine
end

