-- ==== Sys2Proof/Machine/Fir.lean ====
section
/-! DEFINITION. FILT, the streaming FIR filter (R130 to R136). -/

namespace Sys2Proof.Machine

/-- The linear convolution `lin[t]` of a block `x[0..n-1]` with a kernel `h[0..k-1]` (R131): the sum of
`h[i] * x[t-i]` over the i in 0..k-1 with 0 ≤ t-i ≤ n-1. -/
def lin (h x : Nat → Int) (k n t : Nat) : Int :=
  sumTo (fun i => if i ≤ t ∧ t - i < n then h i * x (t - i) else 0) k

/-- `full[t]` of R132: `lin[t]`, plus the overlap carry `REM[t]` for t < R = K - 1. -/
def State.full (s : State) (t : Nat) : Int :=
  lin s.tap s.sample s.kactlen.val Config.blockN t + (if t < s.kactlen.val - 1 then s.carry t else 0)

/-- The rounded output before clamping, `rnd_hu(full[t], 30)` (R133). -/
def State.rounded (s : State) (t : Nat) : Int := rndHu (s.full t) 30

/-- The new OBUF (R132): `sat16` of the rounded outputs. -/
def filteredBlock (s : State) : Vector Half Config.blockN :=
  tabulate Config.blockN fun t => BitVec.ofInt 16 (sat16 (s.rounded t))

/-- The new REM (R132): `wrap64(full[N+j])` for j < R, the other entries as they were. -/
def newRemainder (s : State) : Vector Dword Config.rmax :=
  tabulate Config.rmax fun j =>
    if j < s.kactlen.val - 1 then BitVec.ofInt 64 (wrap64 (s.full (Config.blockN + j)))
    else s.rem[j]?.getD 0#64

/-- Some rounded output was clamped (R132, R134). -/
def State.anySaturates (s : State) : Bool := anyFrom (fun t => outOfRange16 (s.rounded t)) Config.blockN 0

/-- FILT (R132). -/
def execFilt (s : State) : Host.Outcome State Fault Refusal :=
  if s.status.kvalid = false then .next (raiseError .nokernel s)
  else
    .next (complete
      { s with
        obuf := filteredBlock s
        rem := newRemainder s
        status := { s.status with obufv := true, sat := s.status.sat || s.anySaturates } })

end Sys2Proof.Machine
end

