-- ==== Sys2Proof/Machine/Tables.lean ====
section
/-! DEFINITION. The constant tables W, C and S (R47, R152), row by row as Appendix A of 42_spectrum.md lists
them: each row holds 10 consecutive entries, the last row holds entry 440 only. -/

namespace Sys2Proof.Machine

/-- A table as Appendix A prints it. -/
abbrev RomTable := List (List Int)

/-- Entry `t` of a table. Entries past the end, which no rule asks for, are 0. -/
def RomTable.entry (rows : RomTable) (t : Nat) : Int := (rows.getD (t / 10) []).getD (t % 10) 0

/-- Rows 0 to 140 of Appendix A.1: the Hann window, scale 2^15. -/
def hannRows0 : RomTable :=
  [[0, 2, 7, 15, 27, 42, 60, 82, 107, 135],
   [167, 202, 240, 282, 326, 374, 426, 480, 538, 599],
   [664, 731, 802, 876, 953, 1033, 1116, 1203, 1292, 1385],
   [1481, 1579, 1681, 1786, 1893, 2004, 2118, 2234, 2354, 2476],
   [2601, 2729, 2859, 2993, 3129, 3268, 3409, 3554, 3700, 3850],
   [4002, 4156, 4313, 4473, 4635, 4799, 4965, 5134, 5306, 5479],
   [5655, 5833, 6013, 6195, 6379, 6565, 6754, 6944, 7136, 7330],
   [7526, 7724, 7923, 8125, 8327, 8532, 8738, 8946, 9155, 9366],
   [9578, 9791, 10006, 10222, 10440, 10658, 10878, 11099, 11321, 11544],
   [11768, 11993, 12219, 12446, 12673, 12901, 13130, 13360, 13590, 13821],
   [14052, 14284, 14516, 14749, 14982, 15215, 15449, 15682, 15916, 16150],
   [16384, 16618, 16852, 17086, 17319, 17553, 17786, 18019, 18252, 18484],
   [18716, 18947, 19178, 19408, 19638, 19867, 20095, 20322, 20549, 20775],
   [21000, 21224, 21447, 21669, 21890, 22110, 22328, 22546, 22762, 22977],
   [23190, 23402, 23613, 23822, 24030, 24236, 24441, 24643, 24845, 25044]]

/-- Rows 150 to 290 of Appendix A.1: the Hann window, scale 2^15. -/
def hannRows1 : RomTable :=
  [[25242, 25438, 25632, 25824, 26014, 26203, 26389, 26573, 26755, 26935],
   [27113, 27289, 27462, 27634, 27803, 27969, 28133, 28295, 28455, 28612],
   [28766, 28918, 29068, 29214, 29359, 29500, 29639, 29775, 29909, 30039],
   [30167, 30292, 30414, 30534, 30650, 30764, 30875, 30982, 31087, 31189],
   [31287, 31383, 31476, 31565, 31652, 31735, 31815, 31892, 31966, 32037],
   [32104, 32169, 32230, 32288, 32342, 32394, 32442, 32486, 32528, 32566],
   [32601, 32633, 32661, 32686, 32708, 32726, 32741, 32753, 32761, 32766],
   [32768, 32766, 32761, 32753, 32741, 32726, 32708, 32686, 32661, 32633],
   [32601, 32566, 32528, 32486, 32442, 32394, 32342, 32288, 32230, 32169],
   [32104, 32037, 31966, 31892, 31815, 31735, 31652, 31565, 31476, 31383],
   [31287, 31189, 31087, 30982, 30875, 30764, 30650, 30534, 30414, 30292],
   [30167, 30039, 29909, 29775, 29639, 29500, 29359, 29214, 29068, 28918],
   [28766, 28612, 28455, 28295, 28133, 27969, 27803, 27634, 27462, 27289],
   [27113, 26935, 26755, 26573, 26389, 26203, 26014, 25824, 25632, 25438],
   [25242, 25044, 24845, 24643, 24441, 24236, 24030, 23822, 23613, 23402]]

/-- Rows 300 to 440 of Appendix A.1: the Hann window, scale 2^15. -/
def hannRows2 : RomTable :=
  [[23190, 22977, 22762, 22546, 22328, 22110, 21890, 21669, 21447, 21224],
   [21000, 20775, 20549, 20322, 20095, 19867, 19638, 19408, 19178, 18947],
   [18716, 18484, 18252, 18019, 17786, 17553, 17319, 17086, 16852, 16618],
   [16384, 16150, 15916, 15682, 15449, 15215, 14982, 14749, 14516, 14284],
   [14052, 13821, 13590, 13360, 13130, 12901, 12673, 12446, 12219, 11993],
   [11768, 11544, 11321, 11099, 10878, 10658, 10440, 10222, 10006, 9791],
   [9578, 9366, 9155, 8946, 8738, 8532, 8327, 8125, 7923, 7724],
   [7526, 7330, 7136, 6944, 6754, 6565, 6379, 6195, 6013, 5833],
   [5655, 5479, 5306, 5134, 4965, 4799, 4635, 4473, 4313, 4156],
   [4002, 3850, 3700, 3554, 3409, 3268, 3129, 2993, 2859, 2729],
   [2601, 2476, 2354, 2234, 2118, 2004, 1893, 1786, 1681, 1579],
   [1481, 1385, 1292, 1203, 1116, 1033, 953, 876, 802, 731],
   [664, 599, 538, 480, 426, 374, 326, 282, 240, 202],
   [167, 135, 107, 82, 60, 42, 27, 15, 7, 2],
   [0]]

/-- Appendix A.1: the Hann window, scale 2^15. -/
def hannRows : RomTable := hannRows0 ++ hannRows1 ++ hannRows2

/-- Rows 0 to 140 of Appendix A.2: the cosine table, scale 2^15. -/
def cosRows0 : RomTable :=
  [[32768, 32765, 32755, 32738, 32715, 32685, 32648, 32605, 32555, 32499],
   [32436, 32366, 32290, 32208, 32118, 32023, 31920, 31812, 31696, 31575],
   [31447, 31312, 31171, 31024, 30871, 30711, 30545, 30373, 30195, 30011],
   [29820, 29623, 29421, 29212, 28998, 28778, 28551, 28319, 28082, 27838],
   [27589, 27334, 27074, 26808, 26537, 26261, 25979, 25692, 25399, 25102],
   [24799, 24491, 24179, 23861, 23539, 23212, 22880, 22543, 22202, 21857],
   [21507, 21152, 20793, 20431, 20063, 19692, 19317, 18938, 18555, 18169],
   [17778, 17384, 16987, 16586, 16181, 15774, 15363, 14949, 14532, 14112],
   [13689, 13264, 12836, 12405, 11971, 11536, 11098, 10657, 10215, 9770],
   [9323, 8875, 8425, 7973, 7519, 7064, 6607, 6149, 5690, 5230],
   [4768, 4306, 3843, 3379, 2914, 2449, 1983, 1517, 1050, 584],
   [117, -350, -817, -1284, -1750, -2216, -2681, -3146, -3611, -4074],
   [-4537, -4999, -5460, -5920, -6378, -6836, -7292, -7746, -8199, -8650],
   [-9099, -9547, -9993, -10436, -10878, -11317, -11754, -12188, -12621, -13050],
   [-13477, -13901, -14323, -14741, -15156, -15569, -15978, -16384, -16787, -17186]]

/-- Rows 150 to 290 of Appendix A.2: the cosine table, scale 2^15. -/
def cosRows1 : RomTable :=
  [[-17582, -17974, -18362, -18747, -19128, -19505, -19878, -20247, -20612, -20973],
   [-21330, -21682, -22030, -22373, -22712, -23046, -23376, -23701, -24021, -24336],
   [-24646, -24951, -25251, -25546, -25836, -26120, -26400, -26674, -26942, -27205],
   [-27462, -27714, -27961, -28201, -28436, -28665, -28888, -29106, -29317, -29523],
   [-29723, -29916, -30103, -30285, -30460, -30629, -30792, -30948, -31099, -31243],
   [-31380, -31511, -31636, -31755, -31867, -31972, -32071, -32164, -32250, -32329],
   [-32402, -32468, -32528, -32581, -32628, -32667, -32701, -32727, -32747, -32761],
   [-32767, -32767, -32761, -32747, -32727, -32701, -32667, -32628, -32581, -32528],
   [-32468, -32402, -32329, -32250, -32164, -32071, -31972, -31867, -31755, -31636],
   [-31511, -31380, -31243, -31099, -30948, -30792, -30629, -30460, -30285, -30103],
   [-29916, -29723, -29523, -29317, -29106, -28888, -28665, -28436, -28201, -27961],
   [-27714, -27462, -27205, -26942, -26674, -26400, -26120, -25836, -25546, -25251],
   [-24951, -24646, -24336, -24021, -23701, -23376, -23046, -22712, -22373, -22030],
   [-21682, -21330, -20973, -20612, -20247, -19878, -19505, -19128, -18747, -18362],
   [-17974, -17582, -17186, -16787, -16384, -15978, -15569, -15156, -14741, -14323]]

/-- Rows 300 to 440 of Appendix A.2: the cosine table, scale 2^15. -/
def cosRows2 : RomTable :=
  [[-13901, -13477, -13050, -12621, -12188, -11754, -11317, -10878, -10436, -9993],
   [-9547, -9099, -8650, -8199, -7746, -7292, -6836, -6378, -5920, -5460],
   [-4999, -4537, -4074, -3611, -3146, -2681, -2216, -1750, -1284, -817],
   [-350, 117, 584, 1050, 1517, 1983, 2449, 2914, 3379, 3843],
   [4306, 4768, 5230, 5690, 6149, 6607, 7064, 7519, 7973, 8425],
   [8875, 9323, 9770, 10215, 10657, 11098, 11536, 11971, 12405, 12836],
   [13264, 13689, 14112, 14532, 14949, 15363, 15774, 16181, 16586, 16987],
   [17384, 17778, 18169, 18555, 18938, 19317, 19692, 20063, 20431, 20793],
   [21152, 21507, 21857, 22202, 22543, 22880, 23212, 23539, 23861, 24179],
   [24491, 24799, 25102, 25399, 25692, 25979, 26261, 26537, 26808, 27074],
   [27334, 27589, 27838, 28082, 28319, 28551, 28778, 28998, 29212, 29421],
   [29623, 29820, 30011, 30195, 30373, 30545, 30711, 30871, 31024, 31171],
   [31312, 31447, 31575, 31696, 31812, 31920, 32023, 32118, 32208, 32290],
   [32366, 32436, 32499, 32555, 32605, 32648, 32685, 32715, 32738, 32755],
   [32765]]

/-- Appendix A.2: the cosine table, scale 2^15. -/
def cosRows : RomTable := cosRows0 ++ cosRows1 ++ cosRows2

/-- Rows 0 to 140 of Appendix A.3: the sine table, scale 2^15. -/
def sinRows0 : RomTable :=
  [[0, 467, 934, 1400, 1866, 2332, 2798, 3263, 3727, 4190],
   [4653, 5115, 5575, 6035, 6493, 6950, 7405, 7859, 8312, 8762],
   [9211, 9659, 10104, 10547, 10988, 11426, 11863, 12297, 12728, 13157],
   [13583, 14007, 14427, 14845, 15260, 15671, 16080, 16485, 16887, 17285],
   [17680, 18071, 18459, 18843, 19223, 19599, 19971, 20339, 20703, 21063],
   [21418, 21769, 22116, 22458, 22796, 23129, 23458, 23781, 24100, 24414],
   [24723, 25027, 25325, 25619, 25908, 26191, 26469, 26741, 27008, 27270],
   [27526, 27776, 28021, 28260, 28494, 28722, 28943, 29159, 29369, 29573],
   [29771, 29963, 30149, 30329, 30503, 30670, 30832, 30987, 31135, 31278],
   [31414, 31543, 31667, 31783, 31894, 31998, 32095, 32186, 32270, 32348],
   [32419, 32484, 32542, 32593, 32638, 32676, 32708, 32733, 32751, 32763],
   [32768, 32766, 32758, 32743, 32721, 32693, 32658, 32617, 32568, 32514],
   [32452, 32384, 32310, 32229, 32141, 32047, 31946, 31839, 31726, 31606],
   [31479, 31346, 31207, 31062, 30910, 30752, 30587, 30417, 30240, 30057],
   [29868, 29673, 29472, 29265, 29052, 28833, 28608, 28378, 28142, 27900]]

/-- Rows 150 to 290 of Appendix A.3: the sine table, scale 2^15. -/
def sinRows1 : RomTable :=
  [[27652, 27399, 27140, 26875, 26606, 26330, 26050, 25764, 25473, 25177],
   [24875, 24569, 24257, 23941, 23620, 23294, 22963, 22628, 22288, 21943],
   [21594, 21241, 20884, 20522, 20156, 19785, 19411, 19033, 18651, 18266],
   [17876, 17483, 17086, 16686, 16283, 15876, 15466, 15053, 14637, 14218],
   [13795, 13371, 12943, 12513, 12080, 11645, 11207, 10767, 10325, 9881],
   [9435, 8987, 8537, 8086, 7633, 7178, 6721, 6264, 5805, 5345],
   [4884, 4422, 3959, 3495, 3030, 2565, 2099, 1633, 1167, 700],
   [233, -233, -700, -1167, -1633, -2099, -2565, -3030, -3495, -3959],
   [-4422, -4884, -5345, -5805, -6264, -6721, -7178, -7633, -8086, -8537],
   [-8987, -9435, -9881, -10325, -10767, -11207, -11645, -12080, -12513, -12943],
   [-13371, -13795, -14218, -14637, -15053, -15466, -15876, -16283, -16686, -17086],
   [-17483, -17876, -18266, -18651, -19033, -19411, -19785, -20156, -20522, -20884],
   [-21241, -21594, -21943, -22288, -22628, -22963, -23294, -23620, -23941, -24257],
   [-24569, -24875, -25177, -25473, -25764, -26050, -26330, -26606, -26875, -27140],
   [-27399, -27652, -27900, -28142, -28378, -28608, -28833, -29052, -29265, -29472]]

/-- Rows 300 to 440 of Appendix A.3: the sine table, scale 2^15. -/
def sinRows2 : RomTable :=
  [[-29673, -29868, -30057, -30240, -30417, -30587, -30752, -30910, -31062, -31207],
   [-31346, -31479, -31606, -31726, -31839, -31946, -32047, -32141, -32229, -32310],
   [-32384, -32452, -32514, -32568, -32617, -32658, -32693, -32721, -32743, -32758],
   [-32766, -32768, -32763, -32751, -32733, -32708, -32676, -32638, -32593, -32542],
   [-32484, -32419, -32348, -32270, -32186, -32095, -31998, -31894, -31783, -31667],
   [-31543, -31414, -31278, -31135, -30987, -30832, -30670, -30503, -30329, -30149],
   [-29963, -29771, -29573, -29369, -29159, -28943, -28722, -28494, -28260, -28021],
   [-27776, -27526, -27270, -27008, -26741, -26469, -26191, -25908, -25619, -25325],
   [-25027, -24723, -24414, -24100, -23781, -23458, -23129, -22796, -22458, -22116],
   [-21769, -21418, -21063, -20703, -20339, -19971, -19599, -19223, -18843, -18459],
   [-18071, -17680, -17285, -16887, -16485, -16080, -15671, -15260, -14845, -14427],
   [-14007, -13583, -13157, -12728, -12297, -11863, -11426, -10988, -10547, -10104],
   [-9659, -9211, -8762, -8312, -7859, -7405, -6950, -6493, -6035, -5575],
   [-5115, -4653, -4190, -3727, -3263, -2798, -2332, -1866, -1400, -934],
   [-467]]

/-- Appendix A.3: the sine table, scale 2^15. -/
def sinRows : RomTable := sinRows0 ++ sinRows1 ++ sinRows2

/-- `W[x]` (R152). -/
def romW (x : Nat) : Int := hannRows.entry x

/-- `C[t]` (R152). -/
def romC (t : Nat) : Int := cosRows.entry t

/-- `S[t]` (R152). -/
def romS (t : Nat) : Int := sinRows.entry t

end Sys2Proof.Machine
end

