-- ==== Sys2Proof/Machine/Spectrum.lean ====
section
/-! DEFINITION. SPEC, ACCUM, ACLR, DOMSEL and DOMSET: the magnitude spectrum and the dominant bin
(R150 to R161). -/

namespace Sys2Proof.Machine

/-- `re[k]` of the windowed block `u[x] = y[x] * W[x]` (R153). -/
def reBin (y : Nat → Int) (k : Nat) : Int :=
  sumTo (fun x => y x * romW x * romC (x * k % Config.blockN)) Config.blockN

/-- `im[k]` (R153). -/
def imBin (y : Nat → Int) (k : Nat) : Int :=
  -sumTo (fun x => y x * romW x * romS (x * k % Config.blockN)) Config.blockN

/-- `P[k] = re[k]^2 + im[k]^2` (R153). -/
def powerBin (y : Nat → Int) (k : Nat) : Int := reBin y k * reBin y k + imBin y k * imBin y k

/-- `mag[k] = isqrt(floor(P[k] / 2^52))` (R153), UQ28.4. -/
def magBin (y : Nat → Int) (k : Nat) : Nat := isqrt ((powerBin y k).toNat / 2 ^ 52)

/-- SPEC (R154). -/
def execSpec (s : State) : Host.Outcome State Fault Refusal :=
  if s.status.obufv = false then .next (raiseError .noobuf s)
  else
    .next (complete
      { s with
        spec := tabulate Config.nbins fun k => BitVec.ofNat 32 (magBin s.filtered k)
        status := { s.status with specv := true } })

/-- The exact sum `ACC[k] + SPEC[k]` (R156). -/
def State.newBinSum (s : State) (k : Nat) : Nat := s.binSum k + (s.spec[k]?.getD 0#32).toNat

/-- ACCUM saturates an entry or the block count (R156). -/
def State.accumSaturates (s : State) : Bool :=
  anyFrom (fun k => overflows64 (s.newBinSum k)) Config.nbins 0 || s.blkcnt == 0xFFFFFFFF#32

/-- ACCUM (R156). -/
def execAccum (s : State) : Host.Outcome State Fault Refusal :=
  if s.status.specv = false then .next (raiseError .nospec s)
  else
    .next (complete
      { s with
        acc := tabulate Config.nbins fun k => BitVec.ofNat 64 (satu (s.newBinSum k) 64)
        blkcnt := if s.blkcnt = 0xFFFFFFFF#32 then s.blkcnt else s.blkcnt + 1#32
        status := { s.status with asat := s.status.asat || s.accumSaturates } })

/-- ACLR (R157). -/
def execAclr (s : State) : Host.Outcome State Fault Refusal :=
  .next (complete { s with acc := Vector.replicate Config.nbins 0#64, blkcnt := 0#32 })

/-- The bin DOMSEL selects (R158): the lowest index whose sum is greatest. -/
def State.dominantBin (s : State) : Fin Config.nbins :=
  ⟨argmaxTo s.binSum (Config.nbins - 1), Nat.lt_succ_of_le (argmaxTo_le s.binSum (Config.nbins - 1))⟩

/-- DOMSEL (R158). -/
def execDomsel (s : State) : Host.Outcome State Fault Refusal :=
  if s.blkcnt = 0#32 then .next (raiseError .nodata s)
  else .next (complete { s with dom := s.dominantBin, status := { s.status with domv := true } })

/-- DOMSET (R159). -/
def execDomset (bin : Nat) (s : State) : Host.Outcome State Fault Refusal :=
  if h : bin < Config.nbins then
    .next (complete { s with dom := ⟨bin, h⟩, status := { s.status with domv := true } })
  else .next (raiseError .badbin s)

end Sys2Proof.Machine
end

