-- ==== Sys2Proof/Machine/Dispatch.lean ====
section
/-! DEFINITION. The dispatch of the engine step (R115), one arm per command. -/

namespace Sys2Proof.Machine

def exec (i : Instr) (s : State) : Host.Outcome State Fault Refusal :=
  match i with
  | .nop => Sys2Proof.Machine.execNop s
  | .kcommit => Sys2Proof.Machine.execKcommit s
  | .rclr => Sys2Proof.Machine.execRclr s
  | .filt => Sys2Proof.Machine.execFilt s
  | .spec => Sys2Proof.Machine.execSpec s
  | .accum => Sys2Proof.Machine.execAccum s
  | .aclr => Sys2Proof.Machine.execAclr s
  | .domsel => Sys2Proof.Machine.execDomsel s
  | .domset bin => Sys2Proof.Machine.execDomset bin s
  | .cls src => Sys2Proof.Machine.execCls src s

end Sys2Proof.Machine
end

