-- ==== Sys2Proof/WellFormed.lean ====
section
/-! DEFINITION. Which commands have an encoding. The assembler refuses a DOMSET bin outside 0..65535
(R97); it does not refuse a bin ≥ NBINS, which the hardware refuses when the command executes (R159).
Every other command is well formed as it stands. -/

namespace Sys2Proof

/-- The operand fits its field (R92, R97). -/
def Instr.wellFormed : Instr → Bool
  | .nop => true
  | .kcommit => true
  | .rclr => true
  | .filt => true
  | .spec => true
  | .accum => true
  | .aclr => true
  | .domsel => true
  | .domset bin => decide (bin < 2 ^ 16)
  | .cls _ => true

end Sys2Proof
end

