-- ==== Sys2Proof/Decode.lean ====
section
/-! DEFINITION. Decoding a command word (R90 to R95) and, after it, the encoder written from the same
tables (R91 to R93, R97). Decoding is total on every 32-bit word and rejects an illegal one by name. -/

namespace Sys2Proof

/-- The field OP, bits 31:24 (R91). -/
def opField (w : Word) : BitVec 8 := w.extractLsb' 24 8

/-- The field RSV, bits 23:16, 0 in every legal command (R91). -/
def rsvField (w : Word) : BitVec 8 := w.extractLsb' 16 8

/-- The field IMM16, bits 15:0 (R91). -/
def immField (w : Word) : Half := w.extractLsb' 0 16

/-- Why a word is illegal (R95). The hardware reports the one code ILLEGAL for all three. -/
inductive Illegal
  /-- A nonzero RSV field. -/
  | rsvNotZero
  /-- A reserved opcode, 0x0A to 0xFF. -/
  | opReserved
  /-- A nonzero IMM16 bit that R92 requires to be 0. -/
  | immNotZero
  deriving DecidableEq, Repr

/-- A command whose IMM16 must be 0 (R92). -/
def decodePlain (i : Instr) (imm : Half) : Except Illegal Instr :=
  if imm = 0#16 then .ok i else .error .immNotZero

/-- CLS: IMM16[15:1] must be 0, and IMM16[0] is the source (R92). -/
def decodeCls (imm : Half) : Except Illegal Instr :=
  if imm.extractLsb' 1 15 = 0#15 then .ok (.cls (if imm.getLsbD 0 then .spec else .xin))
  else .error .immNotZero

/-- The decoding procedure of R94. -/
def decode (w : Word) : Except Illegal Instr :=
  if rsvField w ≠ 0#8 then .error .rsvNotZero
  else
    match (opField w).toNat with
    | 0x00 => decodePlain .nop (immField w)
    | 0x01 => decodePlain .kcommit (immField w)
    | 0x02 => decodePlain .rclr (immField w)
    | 0x03 => decodePlain .filt (immField w)
    | 0x04 => decodePlain .spec (immField w)
    | 0x05 => decodePlain .accum (immField w)
    | 0x06 => decodePlain .aclr (immField w)
    | 0x07 => decodePlain .domsel (immField w)
    | 0x08 => .ok (.domset (immField w).toNat)
    | 0x09 => decodeCls (immField w)
    | _ => .error .opReserved

/-- The decoder on a word of the opcode table: bit 0 is the least significant bit of the command word,
and bits above `nbits` are 0. Every command is one 32-bit word (R90). -/
def decodeTableWord (nbits w : Nat) : Option Instr :=
  match decode (BitVec.ofNat 32 (w % 2 ^ nbits)) with
  | .ok i => some i
  | .error _ => none

/-- The command's opcode number (R93). -/
def Instr.op : Instr → BitVec 8
  | .nop => 0x00#8
  | .kcommit => 0x01#8
  | .rclr => 0x02#8
  | .filt => 0x03#8
  | .spec => 0x04#8
  | .accum => 0x05#8
  | .aclr => 0x06#8
  | .domsel => 0x07#8
  | .domset _ => 0x08#8
  | .cls _ => 0x09#8

/-- The command's IMM16 (R92). -/
def Instr.imm : Instr → Half
  | .nop => 0#16
  | .kcommit => 0#16
  | .rclr => 0#16
  | .filt => 0#16
  | .spec => 0#16
  | .accum => 0#16
  | .aclr => 0#16
  | .domsel => 0#16
  | .domset bin => BitVec.ofNat 16 bin
  | .cls .xin => 0#16
  | .cls .spec => 1#16

/-- The word `{OP, 0x00, IMM16}` of a command (R97). -/
def encode (i : Instr) : Word := i.op ++ 0x00#8 ++ i.imm

/-- A row of the opcode map (R93). -/
structure OpcodeRow where
  mnemonic : String
  mask : Word
  bits : Word
  deriving DecidableEq, Repr

/-- `(word and mask) = match` (R93). -/
def OpcodeRow.accepts (r : OpcodeRow) (w : Word) : Bool := w &&& r.mask == r.bits

/-- The opcode map of R93, row by row. -/
def opcodeTable : List OpcodeRow :=
  [⟨"NOP", 0xFFFFFFFF#32, 0x00000000#32⟩,
   ⟨"KCOMMIT", 0xFFFFFFFF#32, 0x01000000#32⟩,
   ⟨"RCLR", 0xFFFFFFFF#32, 0x02000000#32⟩,
   ⟨"FILT", 0xFFFFFFFF#32, 0x03000000#32⟩,
   ⟨"SPEC", 0xFFFFFFFF#32, 0x04000000#32⟩,
   ⟨"ACCUM", 0xFFFFFFFF#32, 0x05000000#32⟩,
   ⟨"ACLR", 0xFFFFFFFF#32, 0x06000000#32⟩,
   ⟨"DOMSEL", 0xFFFFFFFF#32, 0x07000000#32⟩,
   ⟨"DOMSET", 0xFFFF0000#32, 0x08000000#32⟩,
   ⟨"CLS", 0xFFFFFFFE#32, 0x09000000#32⟩]

end Sys2Proof
end

