-- ==== Sys2Proof/Machine/Bus.lean ====
section
/-! DEFINITION. The register window and the host's bus transactions (R60 to R73, R250, R251): which location
an offset reaches, what a read returns, and what a write does. -/

namespace Sys2Proof.Machine

/-- The registers of R22 to R38. -/
inductive Reg
  | id
  | ctrl
  | status
  | ie
  | cmd
  | errcode
  | errcmd
  | klen
  | kactlen
  | dom
  | blkcnt
  | xin
  | caLo
  | caHi
  | cbLo
  | cbHi
  | ccLo
  | ccHi
  | clshist
  | paramN
  | paramKmax
  | paramNbins
  deriving DecidableEq, Repr

/-- What an offset of the window reaches (R61). A 64-bit element is reached as two words (R63, R65):
`high` says which. -/
inductive Loc
  | reg (r : Reg)
  | kmem (i : Fin Config.kmax)
  | rem (j : Fin Config.rmax) (high : Bool)
  | ibuf (i : Fin Config.blockN)
  | obuf (i : Fin Config.blockN)
  | spec (k : Fin Config.nbins)
  | acc (k : Fin Config.nbins) (high : Bool)
  | unmapped
  deriving DecidableEq, Repr

/-- The registers in the order of their offsets 0x000, 0x004, …, 0x054 (R22 to R38). -/
def regMap : List Reg :=
  [.id, .ctrl, .status, .ie, .cmd, .errcode, .errcmd, .klen, .kactlen, .dom, .blkcnt, .xin,
   .caLo, .caHi, .cbLo, .cbHi, .ccLo, .ccHi, .clshist, .paramN, .paramKmax, .paramNbins]

/-- The effective offset `ea = {off[15:2], 00}` (R62, R63). -/
def effectiveOffset (off : Half) : Half := off &&& 0xFFFC#16

/-- The position of word index `a` in a region of `n` words from word index `base`. -/
def regionIndex (base n a : Nat) : Option (Fin n) :=
  if h : base ≤ a ∧ a - base < n then some ⟨a - base, h.2⟩ else none

/-- The element of an `n`-element memory of 64-bit entries at word position `i`. -/
def pairIndex {n : Nat} (i : Fin (2 * n)) : Fin n := ⟨i.val / 2, by have := i.isLt; omega⟩

/-- The word at position `i` of a memory of 64-bit entries is a high word. -/
def isHighWord {n : Nat} (i : Fin (2 * n)) : Bool := i.val % 2 == 1

/-- The location of the word at offset `4 * a` (R61). -/
def locOfWord (a : Nat) : Loc :=
  ((regMap[a]?).map .reg).getD <|
  ((regionIndex 0x400 Config.kmax a).map .kmem).getD <|
  ((regionIndex 0x800 (2 * Config.rmax) a).map fun i => .rem (pairIndex i) (isHighWord i)).getD <|
  ((regionIndex 0x1000 Config.blockN a).map .ibuf).getD <|
  ((regionIndex 0x1400 Config.blockN a).map .obuf).getD <|
  ((regionIndex 0x1800 Config.nbins a).map .spec).getD <|
  ((regionIndex 0x2000 (2 * Config.nbins) a).map fun i => .acc (pairIndex i) (isHighWord i)).getD
  .unmapped

/-- The location a byte offset reaches (R61 to R63). -/
def locOf (off : Half) : Loc := locOfWord ((effectiveOffset off).toNat / 4)

/-- The system address of an offset of the window (R61): the platform places the window at CWFE_BASE. -/
def systemAddress (off : Half) : Nat := Config.cwfeBase + off.toNat

/-- The low or the high word of a 64-bit element (R65). -/
def wordOf (d : Dword) (high : Bool) : Word := if high then d.extractLsb' 32 32 else d.extractLsb' 0 32

/-- A 64-bit element with one of its words replaced (R42, R65). -/
def setWord (d : Dword) (high : Bool) (v : Word) : Dword :=
  if high then v ++ d.extractLsb' 0 32 else d.extractLsb' 32 32 ++ v

/-- What a read of a register returns (R22 to R39). CTRL reads 0 (R23); CMD reads CMD_LAST (R28). -/
def readReg (s : State) : Reg → Word
  | .id => Config.idValue
  | .ctrl => 0#32
  | .status => s.status.word
  | .ie => s.ie.word
  | .cmd => s.cmdLast
  | .errcode => s.errcode.code.setWidth 32
  | .errcmd => s.errcmd
  | .klen => s.klen.setWidth 32
  | .kactlen => BitVec.ofNat 32 s.kactlen.val
  | .dom => BitVec.ofNat 32 s.dom.val
  | .blkcnt => s.blkcnt
  | .xin => s.xin
  | .caLo => s.caLo
  | .caHi => s.caHi
  | .cbLo => s.cbLo
  | .cbHi => s.cbHi
  | .ccLo => s.ccLo
  | .ccHi => s.ccHi
  | .clshist => s.clshist
  | .paramN => BitVec.ofNat 32 Config.blockN
  | .paramKmax => BitVec.ofNat 32 Config.kmax
  | .paramNbins => BitVec.ofNat 32 Config.nbins

/-- What a location holds, as a read returns it (R40 to R46, R64): samples are sign-extended (R43, R44),
an unmapped offset reads 0. -/
def readLoc (s : State) : Loc → Word
  | .reg r => readReg s r
  | .kmem i => s.kmem[i]
  | .rem j high => wordOf s.rem[j] high
  | .ibuf i => s.ibuf[i].signExtend 32
  | .obuf i => s.obuf[i].signExtend 32
  | .spec k => s.spec[k]
  | .acc k high => wordOf s.acc[k] high
  | .unmapped => 0#32

/-- The memory entries a command writes when it succeeds, as far as the host can read them (R49). -/
def writesEntry (i : Instr) (s : State) (l : Loc) : Bool :=
  match i, l with
  | .kcommit, .rem _ _ => true
  | .rclr, .rem _ _ => true
  | .filt, .obuf _ => true
  | .filt, .rem j _ => decide (j.val < s.kactlen.val - 1)
  | .spec, .spec _ => true
  | .accum, .acc _ _ => true
  | .aclr, .acc _ _ => true
  | _, _ => false

/-- The location is a memory entry in the write set of the command in flight (R251 (b), U2). A command that is
going to raise an error writes no memory entry (R49), so its write set has none. -/
def inFlightEntry (s : State) (l : Loc) : Bool :=
  s.status.busy &&
    match decode s.cmdLast with
    | .ok i => (failedCheck i s).isNone && writesEntry i s l
    | .error _ => false

/-- A write the block ignores or performs by mode (R67, R250): dropped with HAZ while BUSY. -/
def whenNotBusy (s t : State) : State := if s.status.busy then dropWrite s else t

/-- A host write of `v` to a register (R22 to R39, R64, R67). -/
def writeReg (r : Reg) (v : Word) (s : State) : State :=
  match r with
  | .ctrl => if v.getLsbD 0 then resetBlock s else s
  | .status => writeStatus v s
  | .ie => { s with ie := IntEnable.ofWord v }
  | .cmd => writeCmd v s
  | .klen => whenNotBusy s { s with klen := v.extractLsb' 0 16 }
  | .xin => whenNotBusy s { s with xin := v }
  | .caLo => whenNotBusy s { s with caLo := v }
  | .caHi => whenNotBusy s { s with caHi := v }
  | .cbLo => whenNotBusy s { s with cbLo := v }
  | .cbHi => whenNotBusy s { s with cbHi := v }
  | .ccLo => whenNotBusy s { s with ccLo := v }
  | .ccHi => whenNotBusy s { s with ccHi := v }
  | .clshist => whenNotBusy s { s with clshist := v }
  | .id => s
  | .errcode => s
  | .errcmd => s
  | .kactlen => s
  | .dom => s
  | .blkcnt => s
  | .paramN => s
  | .paramKmax => s
  | .paramNbins => s

/-- A host write of `v` to a location (R40 to R46, R64, R67). -/
def writeLoc (l : Loc) (v : Word) (s : State) : State :=
  match l with
  | .reg r => writeReg r v s
  | .kmem i => whenNotBusy s { s with kmem := s.kmem.set i.val v i.isLt }
  | .rem j high => whenNotBusy s { s with rem := s.rem.set j.val (setWord s.rem[j] high v) j.isLt }
  | .ibuf i => whenNotBusy s { s with ibuf := s.ibuf.set i.val (v.extractLsb' 0 16) i.isLt }
  | .obuf _ => s
  | .spec _ => s
  | .acc _ _ => s
  | .unmapped => s

/-- `MemRead(off, 4)` (R62, R66, R251): the block's state is unchanged, and the data goes to the bus. -/
def performRead (off : Half) (s : State) : State :=
  if inFlightEntry s (locOf off) then
    { s with
      env := { s.env with busOut := some (.read (Config.busyWord s.env.drawNo)), drawNo := s.env.drawNo + 1 } }
  else { s with env := { s.env with busOut := some (.read (readLoc s (locOf off))) } }

/-- The acknowledge of a completed write (R60). -/
def acknowledgeWrite (s : State) : State := { s with env := { s.env with busOut := some .written } }

/-- `MemWrite(off, 4, v)` (R62, R66). -/
def performWrite (off : Half) (v : Word) (s : State) : State := acknowledgeWrite (writeLoc (locOf off) v s)

end Sys2Proof.Machine
end

