-- ==== Sys2Proof/Machine/Host.lean ====
section
/-! DEFINITION. The host agent (R6): the values of the expressions and names of its program (R98), and its
step. -/

namespace Sys2Proof.Machine

/-- The value of the name `n`. -/
def lookupName (n : HostName) : List (HostName × Int) → Option Int
  | [] => none
  | (m, v) :: ns => if m = n then some v else lookupName n ns

/-- The names with `n` bound to `v`. -/
def bindName (n : HostName) (v : Int) (ns : List (HostName × Int)) : List (HostName × Int) :=
  (n, v) :: ns.filter fun p => p.1 ≠ n

/-- The value of an expression (R11, R98). A name that nothing has bound has a free value. -/
def HostExpr.eval (ns : List (HostName × Int)) : HostExpr → Int
  | .num n => n
  | .name n => (lookupName n ns).getD (Config.unboundName n)
  | .neg a => -a.eval ns
  | .add a b => a.eval ns + b.eval ns
  | .sub a b => a.eval ns - b.eval ns
  | .mul a b => a.eval ns * b.eval ns
  | .div a b => a.eval ns / b.eval ns
  | .mod a b => a.eval ns % b.eval ns
  | .bits a hi lo => a.eval ns / 2 ^ lo % 2 ^ (hi + 1 - lo)
  | .pair a b => a.eval ns * 2 ^ 32 + b.eval ns
  | .entry table i => table.getD (i.eval ns).toNat 0

/-- The byte offset an expression gives (R62). -/
def HostExpr.offset (ns : List (HostName × Int)) (e : HostExpr) : Half := BitVec.ofInt 16 (e.eval ns)

/-- The 32-bit word an expression gives (R62), in two's complement. -/
def HostExpr.word (ns : List (HostName × Int)) (e : HostExpr) : Word := BitVec.ofInt 32 (e.eval ns)

/-- The host's remaining operations become `q`. -/
def setHostQ (q : List HostOp) (s : State) : State := { s with env := { s.env with hostQ := q } }

/-- The host's name `n` takes the value `v` (R98). -/
def assignName (n : HostName) (v : Int) (s : State) : State :=
  { s with env := { s.env with names := bindName n v s.env.names } }

/-- The data of the read just completed, as an unsigned number. -/
def readData : Option BusResult → Int
  | some (.read w) => w.toNat
  | _ => 0

/-- `<n> = MemRead(off, 4)` (R98). -/
def readInto (off : Half) (n : HostName) (s : State) : State :=
  assignName n (readData (performRead off s).env.busOut) (performRead off s)

/-- The byte offset of STATUS (R24). -/
def statusOffset : Half := 0x008#16

/-- The byte offset of CMD (R28). -/
def cmdOffset : Half := 0x010#16

/-- The name the `wait` loop reads STATUS into (R98). -/
def waitName : HostName := ['s']

/-- The host's step (R6): its next operation, if it has one. A `wait` reads STATUS and stays until BUSY
reads 0 (R98); an assignment and a wait for irq make no transaction. -/
def hostStep (s : State) : State :=
  match s.env.hostQ with
  | [] => s
  | .read off n :: q => readInto (off.offset s.env.names) n (setHostQ q s)
  | .write off v :: q => performWrite (off.offset s.env.names) (v.word s.env.names) (setHostQ q s)
  | .assign n v :: q => assignName n (v.eval s.env.names) (setHostQ q s)
  | .wait :: q => readInto statusOffset waitName (if s.status.busy then s else setHostQ q s)
  | .waitIrq :: q => if s.irq then setHostQ q s else s

end Sys2Proof.Machine
end

