-- ==== Sys2Proof/Machine/Engine.lean ====
section
/-! DEFINITION. The engine step (R113, R115) and which agent moves (R6, R69, R262). -/

namespace Sys2Proof.Machine

/-- The engine step (R115): the accepted word is decoded; an illegal one raises ILLEGAL (R94, R201),
a command has its effect. -/
def engineStep (s : State) : Host.Outcome State Fault Refusal :=
  match decode s.cmdLast with
  | .ok i => exec i s
  | .error _ => .next (raiseError .illegal s)

/-- `n` steps are still to pass before the engine step (R262). -/
def countDown (n : Nat) (s : State) : State := { s with env := { s.env with engineWait := n } }

/-- One step with `rst_n` high. While BUSY, the command's latency runs down, one host operation a step,
and the engine step comes when it is used up (R262); otherwise the host moves. -/
def runningStep (s : State) : Host.Outcome State Fault Refusal :=
  if s.status.busy then
    match s.env.engineWait with
    | 0 => engineStep s
    | n + 1 => .next (hostStep (countDown n s))
  else .next (hostStep s)

/-- One step (R240): while `rst_n` is low the block takes its reset state, whatever else is pending. -/
def stepOnce (s : State) : Host.Outcome State Fault Refusal :=
  if s.rstHigh then runningStep (beginStep s) else .next (resetBlock (beginStep s))

/-- The state with the command word `w` accepted and its engine step due next: what an accepted CMD write
and the run-out of its latency leave (R111, R262). A command in flight has ERR = 0 (R21), and `rst_n` is
high. -/
def placeCommand (w : Word) (s : State) : State :=
  { s with
    cmdLast := w
    status := { s.status with busy := true, done := false, err := false }
    env := { s.env with engineWait := 0, rstQ := [] } }

end Sys2Proof.Machine
end

