-- ==== Sys2Proof/Machine/Step.lean ====
section
/-! DEFINITION. The step function of the machine, and the placing of a command word where the next step
runs it. -/

namespace Sys2Proof.Machine

/-- One step of CWFE: a reset, the engine step, a host operation, or, when nothing is enabled, no change
to the block. -/
def step (s : State) : Host.Outcome State Fault Refusal := stepOnce s

/-- CWFE fetches nothing (R21): a command is the word the host wrote to CMD, latched in CMD_LAST (R72).
This is the state in which that word has been accepted and the very next step is its engine step. -/
def State.withFetchWord (s : State) (nbits w : Nat) : State :=
  placeCommand (BitVec.ofNat 32 (w % 2 ^ nbits)) s

end Sys2Proof.Machine
end

