-- ==== Sys2Proof/Machine/Assembler.lean ====
section
/-! DEFINITION. The assembler of R97: one command line to its word. Words of a line are separated by
spaces. -/

namespace Sys2Proof.Machine.Asm

/-- The space-separated words of a line; `cur` is the word being read, reversed. -/
def wordsFrom : List Char → List Char → List (List Char)
  | [], [] => []
  | [], cur => [cur.reverse]
  | c :: cs, cur =>
    if c = ' ' then (if cur = [] then wordsFrom cs [] else cur.reverse :: wordsFrom cs [])
    else wordsFrom cs (c :: cur)

/-- The value of a digit in a base up to 16. -/
def digit (base : Nat) (c : Char) : Option Nat :=
  let n := c.toNat
  let d := if 48 ≤ n ∧ n ≤ 57 then n - 48 else if 65 ≤ n ∧ n ≤ 70 then n - 55
    else if 97 ≤ n ∧ n ≤ 102 then n - 87 else 16
  if d < base then some d else none

/-- A nonempty digit string in a base, most significant digit first. -/
def digits (base : Nat) : List Char → Option Nat → Option Nat
  | [], acc => acc
  | c :: cs, acc =>
    match digit base c with
    | some d => digits base cs (some (acc.getD 0 * base + d))
    | none => none

/-- A bin operand: "decimal or 0x-hex" (R97). -/
def number : List Char → Option Nat
  | '0' :: 'x' :: cs => digits 16 cs none
  | cs => digits 10 cs none

/-- The operand-free mnemonics (R97). -/
def plainMnemonics : List (List Char × Instr) :=
  [(['N', 'O', 'P'], .nop),
   (['K', 'C', 'O', 'M', 'M', 'I', 'T'], .kcommit),
   (['R', 'C', 'L', 'R'], .rclr),
   (['F', 'I', 'L', 'T'], .filt),
   (['S', 'P', 'E', 'C'], .spec),
   (['A', 'C', 'C', 'U', 'M'], .accum),
   (['A', 'C', 'L', 'R'], .aclr),
   (['D', 'O', 'M', 'S', 'E', 'L'], .domsel)]

/-- The command a line names (R97). -/
def parseWords : List (List Char) → Option Instr
  | [m] => (plainMnemonics.find? (fun p => p.1 == m)).map Prod.snd
  | [m, arg] =>
    if m = ['D', 'O', 'M', 'S', 'E', 'T'] then (number arg).map .domset
    else if m = ['C', 'L', 'S'] then
      if arg = ['X', 'I', 'N'] then some (.cls .xin)
      else if arg = ['S', 'P', 'E', 'C'] then some (.cls .spec)
      else none
    else none
  | _ => none

/-- The word of the words of a line, `{OP, 0x00, IMM16}`; a DOMSET bin outside 0..65535 is refused (R97). -/
def assembleWords (words : List (List Char)) : Option Word :=
  match parseWords words with
  | some i => if i.wellFormed then some (encode i) else none
  | none => none

/-- The word of a line (R97). -/
def assembleLine (line : List Char) : Option Word := assembleWords (wordsFrom line [])

end Sys2Proof.Machine.Asm
end

