-- ==== Sys2Proof/Machine/Program.lean ====
section
/-! DEFINITION. The host-program syntax (R98): its forms, and the host operations each one stands for. -/

namespace Sys2Proof.Machine

/-- The byte offset a register name stands for (R98; R22 to R38). -/
def Reg.offset (r : Reg) : HostExpr := .num (4 * regMap.idxOf r)

/-- The forms of a host program (R98). A command line is the text R97 assembles. -/
inductive HostLine
  /-- `wr <off>, <v>`. -/
  | wr (off v : HostExpr)
  /-- `rd <off> -> <name>`. -/
  | rd (off : HostExpr) (name : HostName)
  /-- `cmd <command line>`. -/
  | cmd (line : List Char)
  /-- `wait`. -/
  | wait
  /-- `wrk <i>, <v>`. -/
  | wrk (i v : HostExpr)
  /-- `wri <i>, <v>`. -/
  | wri (i v : HostExpr)
  /-- `wr64 <off>, <v>`. -/
  | wr64 (off v : HostExpr)
  /-- `rd64 <off> -> <name>`. -/
  | rd64 (off : HostExpr) (name : HostName)
  /-- `clr <mask>`. -/
  | clr (mask : HostExpr)
  /-- `run <command line>`. -/
  | run (line : List Char)
  /-- `for <v> in <a>..<b>: <line>`. DESIGN CHOICE (log 19): the bounds are integers; R98 does not say whether they
  may be expressions. -/
  | forIn (v : HostName) (a b : Int) (line : HostLine)
  deriving DecidableEq, Repr

/-- An expression with the variables of the enclosing `for`s replaced by their values. -/
def HostExpr.close (vars : List (HostName × Int)) : HostExpr → HostExpr
  | .num n => .num n
  | .name n =>
    match lookupName n vars with
    | some v => .num v
    | none => .name n
  | .neg a => .neg (a.close vars)
  | .add a b => .add (a.close vars) (b.close vars)
  | .sub a b => .sub (a.close vars) (b.close vars)
  | .mul a b => .mul (a.close vars) (b.close vars)
  | .div a b => .div (a.close vars) (b.close vars)
  | .mod a b => .mod (a.close vars) (b.close vars)
  | .bits a hi lo => .bits (a.close vars) hi lo
  | .pair a b => .pair (a.close vars) (b.close vars)
  | .entry table i => .entry table (i.close vars)

/-- An operand of a command line with the variable of an enclosing `for` replaced by its value. -/
def closeWord (vars : List (HostName × Int)) (w : List Char) : List Char :=
  match lookupName w vars with
  | some v => if v < 0 then w else Nat.toDigits 10 v.toNat
  | none => w

/-- The word of a command line within the `for`s of the variables `vars` (R97, R98). -/
def commandWord (vars : List (HostName × Int)) (line : List Char) : Option Word :=
  match Asm.wordsFrom line [] with
  | [] => none
  | m :: args => Asm.assembleWords (m :: args.map (closeWord vars))

/-- The operations of the lines `f k, f (k + 1), …`, `n` of them, if each has its expansion. -/
def expandFrom (f : Int → Option (List HostOp)) : Nat → Int → Option (List HostOp)
  | 0, _ => some []
  | n + 1, k =>
    match f k, expandFrom f n (k + 1) with
    | some ops, some rest => some (ops ++ rest)
    | _, _ => none

/-- `wr CMD, <word>`. -/
def writeCommand (w : Word) : List HostOp := [.write (.num cmdOffset.toNat) (.num w.toNat)]

/-- The expansion of a line within the `for`s of the variables `vars` (R98). A command line the assembler refuses
(R97) and a `for` with b < a have none. -/
def HostLine.expandIn : HostLine → List (HostName × Int) → Option (List HostOp)
  | .wr off v, vars => some [.write (off.close vars) (v.close vars)]
  | .rd off n, vars => some [.read (off.close vars) n]
  | .cmd line, vars => (commandWord vars line).map writeCommand
  | .wait, _ => some [.wait]
  | .wrk i v, vars => some [.write (.add (.num 0x1000) (.mul (.num 4) (i.close vars))) (v.close vars)]
  | .wri i v, vars =>
    some [.write (.add (.num 0x4000) (.mul (.num 4) (i.close vars))) (.bits (v.close vars) 15 0)]
  | .wr64 off v, vars =>
    some [.write (off.close vars) (.bits (v.close vars) 31 0),
      .write (.add (off.close vars) (.num 4)) (.bits (v.close vars) 63 32)]
  | .rd64 off n, vars =>
    some [.read (off.close vars) ['l', 'o'], .read (.add (off.close vars) (.num 4)) ['h', 'i'],
      .assign n (.pair (.name ['h', 'i']) (.name ['l', 'o']))]
  | .clr mask, vars => some [.write (.num statusOffset.toNat) (mask.close vars)]
  | .run line, vars => (commandWord vars line).map fun w => writeCommand w ++ [.wait]
  | .forIn v a b line, vars =>
    if a ≤ b then expandFrom (fun k => line.expandIn ((v, k) :: vars)) (b + 1 - a).toNat a else none

/-- The expansion of a line (R98). -/
def HostLine.expand (l : HostLine) : Option (List HostOp) := l.expandIn []

/-- The expansion of a program, line by line. -/
def expandProgram : List HostLine → Option (List HostOp)
  | [] => some []
  | l :: ls =>
    match l.expand, expandProgram ls with
    | some ops, some rest => some (ops ++ rest)
    | _, _ => none

end Sys2Proof.Machine
end

