-- ==== Sys2Proof/Safety.lean ====
section
/-! DEFINITION. What holds of every state the block can reach, in the terms the claims use. -/

namespace Sys2Proof.Machine

/-- The invariant of the block. -/
structure State.Inv (s : State) : Prop where
  /-- BUSY = 1 together with ERR = 1 never occurs (R21). -/
  busyNotErr : s.status.busy = true → s.status.err = false
  /-- DONE is cleared on acceptance, so it is 0 while BUSY (R111, R251). -/
  busyNotDone : s.status.busy = true → s.status.done = false
  /-- A pending error has a code (R202). -/
  errHasCode : s.status.err = true → s.errcode ≠ .none
  /-- NUMERIC is never raised (R138, R201). -/
  neverNumeric : s.errcode ≠ .numeric
  /-- A committed kernel has an odd length (R117); that it is at most KMAX is in its type. -/
  kernelOdd : s.status.kvalid = true → s.kactlen.val % 2 = 1
  /-- Without a committed kernel KACTLEN keeps its reset value (R32). -/
  noKernel : s.status.kvalid = false → s.kactlen.val = 0
  /-- OBUF is filled by a FILT, which needs a kernel (R132). -/
  obufNeedsKernel : s.status.obufv = true → s.status.kvalid = true
  /-- SPEC is filled by a SPEC command, which needs a filtered block (R154). -/
  specNeedsBlock : s.status.specv = true → s.status.obufv = true
  /-- An entry of a computed spectrum is below 2^30 (R155). -/
  specBounded : s.status.specv = true → ∀ k : Fin Config.nbins, s.spec[k].toNat < 2 ^ 30
  /-- With no block accumulated every bin sum is 0 (R46, R157). -/
  emptyWindow : s.blkcnt = 0#32 → ∀ k : Fin Config.nbins, s.acc[k] = 0#64
  /-- Without a dominant bin DOM keeps its reset value (R33). -/
  noDominant : s.status.domv = false → s.dom.val = 0
  /-- Only a command in flight has a latency left (the model's own field). -/
  waitOnlyBusy : s.status.busy = false → s.env.engineWait = 0

/-- Every piece of state for which R50 and R243 give a reset value has it. -/
structure State.HasResetValues (s : State) : Prop where
  status : s.status = Status.reset
  ie : s.ie = IntEnable.reset
  cmdLast : s.cmdLast = 0#32
  errcode : s.errcode = .none
  errcmd : s.errcmd = 0#32
  klen : s.klen = 0#16
  kactlen : s.kactlen.val = 0
  dom : s.dom.val = 0
  blkcnt : s.blkcnt = 0#32
  xin : s.xin = 0#32
  coefficients : s.caLo = 0#32 ∧ s.caHi = 0#32 ∧ s.cbLo = 0#32 ∧ s.cbHi = 0#32 ∧ s.ccLo = 0#32 ∧ s.ccHi = 0#32
  clshist : s.clshist = 0#32
  rem : ∀ j : Fin Config.rmax, s.rem[j] = 0#64
  acc : ∀ k : Fin Config.nbins, s.acc[k] = 0#64

end Sys2Proof.Machine
end

