-- ==== Sys2Proof/Certificates/Slice0/Obligations.lean ====
section
/-! DEFINITION. The statements for the provers, and the notions of the spec they are written in. The notions
are written from the rules, apart from the model's own definitions where a rule gives a formula. -/

namespace Sys2Proof.Claims

open Sys2Proof Sys2Proof.Machine

/-- The aligned byte offset an access reaches (R62). -/
def aligned (off : Half) : Nat := off.toNat / 4 * 4

/-- The byte offset `n` as the bus carries it. -/
def at' (n : Nat) : Half := BitVec.ofNat 16 n

/-- The offsets R61 leaves unmapped. -/
def Unmapped (off : Half) : Prop :=
  (0x58 ≤ aligned off ∧ aligned off < 0x1000) ∨
  (0x1000 + 4 * 1023 ≤ aligned off ∧ aligned off < 0x2000) ∨
  (0x2000 + 8 * 1022 ≤ aligned off ∧ aligned off < 0x4000) ∨
  (0x4000 + 4 * 441 ≤ aligned off ∧ aligned off < 0x5000) ∨
  (0x5000 + 4 * 441 ≤ aligned off ∧ aligned off < 0x6000) ∨
  (0x6000 + 4 * 220 ≤ aligned off ∧ aligned off < 0x8000) ∨
  0x8000 + 8 * 220 ≤ aligned off

/-- The read-only registers and windows (R64): ID, ERRCODE, ERRCMD, KACTLEN, DOM, BLKCNT, PARAM_*, OBUF, SPEC
and ACC. -/
def ReadOnly (off : Half) : Prop :=
  aligned off = 0x000 ∨ aligned off = 0x014 ∨ aligned off = 0x018 ∨ aligned off = 0x020 ∨
  aligned off = 0x024 ∨ aligned off = 0x028 ∨ aligned off = 0x04C ∨ aligned off = 0x050 ∨
  aligned off = 0x054 ∨
  (0x5000 ≤ aligned off ∧ aligned off < 0x5000 + 4 * 441) ∨
  (0x6000 ≤ aligned off ∧ aligned off < 0x6000 + 4 * 220) ∨
  (0x8000 ≤ aligned off ∧ aligned off < 0x8000 + 8 * 220)

/-- The offsets whose writes are dropped with HAZ while BUSY (R67): CMD, KLEN, XIN, CA_*, CB_*, CC_*, CLSHIST,
KMEM, REM and IBUF. -/
def DroppedWhileBusy (off : Half) : Prop :=
  aligned off = 0x010 ∨ aligned off = 0x01C ∨ (0x02C ≤ aligned off ∧ aligned off ≤ 0x048) ∨
  (0x1000 ≤ aligned off ∧ aligned off < 0x1000 + 4 * 1023) ∨
  (0x2000 ≤ aligned off ∧ aligned off < 0x2000 + 8 * 1022) ∨
  (0x4000 ≤ aligned off ∧ aligned off < 0x4000 + 4 * 441)

/-- The state after a read that returned `w` and touched nothing (R66). -/
def readDone (w : Word) (s : State) : State := { s with env := { s.env with busOut := some (.read w) } }

/-- The state `s` after a completed write that left the block in `s`. -/
def writeDone (s : State) : State := { s with env := { s.env with busOut := some .written } }

/-- A host write of `v` at `off` is one of CTRL with SRST set (R23). -/
def IsSoftReset (off : Half) (v : Word) : Prop := aligned off = 0x004 ∧ v.getLsbD 0 = true

/-- The host operation is a write that sets SRST for some values of the host's names. -/
def MaySoftReset (op : HostOp) : Prop :=
  ∃ off v names, op = .write off v ∧ IsSoftReset (off.offset names) (v.word names)

/-- The coming step is the engine step of the command in flight (R115, R262). -/
def EngineDue (s : State) : Prop := s.rstHigh = true ∧ s.status.busy = true ∧ s.env.engineWait = 0

/-- The coming step is the host's. -/
def HostTurn (s : State) : Prop := s.rstHigh = true ∧ ¬ EngineDue s

/-- The coming step performs the host's `MemWrite(off, 4, v)`. -/
def HostWrites (s : State) (off : Half) (v : Word) : Prop :=
  HostTurn s ∧ ∃ o e q, s.env.hostQ = .write o e :: q ∧ o.offset s.env.names = off ∧ e.word s.env.names = v

/-- The coming step resets the block, by `rst_n` or by CTRL.SRST (R240, R241). -/
def Resets (s : State) : Prop := s.rstHigh = false ∨ ∃ off v, HostWrites s off v ∧ IsSoftReset off v

/-- The coming step is the engine step of the command `i`. -/
def Runs (s : State) (i : Instr) : Prop := EngineDue s ∧ decode s.cmdLast = .ok i

/-- The block's state as it enters the engine step: the step's `rst_n` level is used up and no transaction
has completed in it. -/
def entering (s : State) : State := { s with env := { s.env with rstQ := s.env.rstQ.tail, busOut := none } }

/-- The block's state as it enters a step of the host that leaves the operations `q`: the step's `rst_n` level is
used up, no transaction has completed in it, and a command in flight is one step nearer to its engine step. -/
def hostEntering (q : List HostOp) (s : State) : State :=
  { s with env := { s.env with
      rstQ := s.env.rstQ.tail, busOut := none, hostQ := q
      engineWait := if s.status.busy then s.env.engineWait - 1 else s.env.engineWait } }

/-- The state with the host's name `n` bound to `v`. -/
def named (n : HostName) (v : Int) (s : State) : State :=
  { s with env := { s.env with names := bindName n v s.env.names } }

/-- The same state with `rst_n` low during the coming step. -/
def rstAsserted (s : State) : State := { s with env := { s.env with rstQ := false :: s.env.rstQ.tail } }

/-- The state an error entry with code `c` leaves (R202). -/
def erred (c : ErrCode) (s : State) : State :=
  { s with
    errcode := c
    errcmd := s.cmdLast
    status := { s.status with err := true, busy := false, done := true } }

/-- `lin[t]` (R131) of the committed kernel and the input block. -/
def convolution (s : State) (t : Nat) : Int :=
  ∑ i ∈ Finset.range s.kactlen.val, if i ≤ t ∧ t - i ≤ 440 then (s.kact[i]!).toInt * (s.ibuf[t - i]!).toInt else 0

/-- `full[t]` (R132): the convolution plus the overlap carry for t < R = K - 1. -/
def carried (s : State) (t : Nat) : Int :=
  convolution s t + if t + 1 < s.kactlen.val then (s.rem[t]!).toInt else 0

/-- `rnd_hu(v, 30)` (R133). -/
def rounded30 (v : Int) : Int := (v + 2 ^ 29) / 2 ^ 30

/-- Clamping to the s16 range (R133). -/
def clamp16 (v : Int) : Int := max (-32768) (min 32767 v)

/-- The state after a FILT of the block `b`. -/
def filtered (s : State) (b : Vector Half 441) : State :=
  match exec .filt { s with ibuf := b } with
  | .next t => t
  | _ => s

/-- The state after the first `n` blocks of a stream (R135). -/
def stream (s : State) (blocks : Nat → Vector Half 441) : Nat → State
  | 0 => s
  | n + 1 => filtered (stream s blocks n) (blocks n)

/-- `X[T]`, the whole signal of a stream (R135). -/
def signal (blocks : Nat → Vector Half 441) (T : Nat) : Int := ((blocks (T / 441))[T % 441]!).toInt

/-- `re[k]` (R153). -/
def dftRe (y : Nat → Int) (k : Nat) : Int := ∑ x ∈ Finset.range 441, y x * romW x * romC (x * k % 441)

/-- `im[k]` (R153). -/
def dftIm (y : Nat → Int) (k : Nat) : Int := -∑ x ∈ Finset.range 441, y x * romW x * romS (x * k % 441)

/-- The filtered block as integers. -/
def block (s : State) (x : Nat) : Int := (s.obuf[x]!).toInt

/-- The state after an ACCUM of the spectrum `p`. -/
def accumulated (s : State) (p : Vector Word 220) : State :=
  match exec .accum { s with spec := p } with
  | .next t => t
  | _ => s

/-- The state after `n` ACCUMs of an analysis window (R157). -/
def window (s : State) (spectra : Nat → Vector Word 220) : Nat → State
  | 0 => s
  | n + 1 => accumulated (window s spectra n) (spectra n)

/-- The sum of bin `k` over the first `n` spectra of a window. -/
def windowSum (spectra : Nat → Vector Word 220) (n k : Nat) : Nat :=
  ∑ q ∈ Finset.range n, ((spectra q)[k]!).toNat

/-- The average magnitude of bin `k` over a window of `n` blocks (R160). -/
def average (spectra : Nat → Vector Word 220) (n k : Nat) : ℚ := (windowSum spectra n k : ℚ) / n

/-- CA, CB and CC as signed 64-bit integers (R36). -/
def coefA (s : State) : Int := (s.caHi ++ s.caLo).toInt
def coefB (s : State) : Int := (s.cbHi ++ s.cbLo).toInt
def coefC (s : State) : Int := (s.ccHi ++ s.ccLo).toInt

/-- The sample a CLS decides, when its checks pass (R182). -/
def clsSample (s : State) : ClsSrc → Option Word
  | .xin => some s.xin
  | .spec => if s.status.domv = true ∧ s.status.specv = true then some s.spec[s.dom] else none

/-- The responsibility of a component with mean `mu`, variance `v` and weight `w` for the sample `x`, up to
the common normaliser (R184); `g` is GAUSS_DIV. -/
noncomputable def responsibility (g w mu v x : ℝ) : ℝ :=
  w * Real.exp (-((x - mu) ^ 2) / (g * v)) / Real.sqrt (2 * Real.pi * v)

/-- The coefficients a, b and c of R184 step 3. -/
noncomputable def fitA (g vHi vLo : ℝ) : ℝ := 1 / (g * vLo) - 1 / (g * vHi)
noncomputable def fitB (g muHi vHi muLo vLo : ℝ) : ℝ := 2 * muHi / (g * vHi) - 2 * muLo / (g * vLo)
noncomputable def fitC (g wHi muHi vHi wLo muLo vLo : ℝ) : ℝ :=
  muLo ^ 2 / (g * vLo) - muHi ^ 2 / (g * vHi) + Real.log (wHi / wLo) + 1 / 2 * Real.log (vLo / vHi)

/-- The first check of R204 that the accepted command fails, with its error (R112, R201). -/
def firstFailed (s : State) : Option ErrCode :=
  match decode s.cmdLast with
  | .error _ => some .illegal
  | .ok .kcommit =>
    if s.klen.toNat = 0 ∨ s.klen.toNat % 2 = 0 ∨ 1023 < s.klen.toNat then some .badklen else none
  | .ok .filt => if s.status.kvalid then none else some .nokernel
  | .ok .spec => if s.status.obufv then none else some .noobuf
  | .ok .accum => if s.status.specv then none else some .nospec
  | .ok .domsel => if s.blkcnt = 0#32 then some .nodata else none
  | .ok (.domset bin) => if 220 ≤ bin then some .badbin else none
  | .ok (.cls .spec) =>
    if s.status.domv then (if s.status.specv then none else some .nospec) else some .nodom
  | .ok .nop | .ok .rclr | .ok .aclr | .ok (.cls .xin) => none

/-- The code column of R201. -/
def codeNumber : ErrCode → Nat
  | .none => 0
  | .illegal => 1
  | .badklen => 2
  | .nokernel => 3
  | .noobuf => 4
  | .nospec => 5
  | .nodata => 6
  | .nodom => 7
  | .badbin => 8
  | .numeric => 9

/-- The memory entries in the write set of the command `i` when it succeeds (R49), by offset. -/
def InWriteSet (i : Instr) (s : State) (off : Half) : Prop :=
  match i with
  | .kcommit | .rclr => 0x2000 ≤ aligned off ∧ aligned off < 0x2000 + 8 * 1022
  | .filt => (0x5000 ≤ aligned off ∧ aligned off < 0x5000 + 4 * 441) ∨
      (0x2000 ≤ aligned off ∧ aligned off < 0x2000 + 8 * (s.kactlen.val - 1))
  | .spec => 0x6000 ≤ aligned off ∧ aligned off < 0x6000 + 4 * 220
  | .accum | .aclr => 0x8000 ≤ aligned off ∧ aligned off < 0x8000 + 8 * 220
  | .nop | .domsel | .domset _ | .cls _ => False

end Sys2Proof.Claims

open Sys2Proof Sys2Proof.Machine Sys2Proof.Claims

/-! ### Encoding -/

/-- Decoding an encoded well-formed command gives it back (R93, R94, R97). -/
def Obligations.DecodeInvertsEncode : Prop :=
  ∀ i : Instr, i.wellFormed = true → decode (encode i) = .ok i

/-- A word decodes to one command only, and that command's encoding is the word (R91 to R94). -/
def Obligations.DecodedWordIsTheEncoding : Prop :=
  ∀ (w : Word) (i : Instr), decode w = .ok i → i.wellFormed = true ∧ encode i = w

/-- R93. -/
def Obligations.LegalWordMatchesExactlyOneRow : Prop :=
  ∀ w : Word,
    ((∃ i, decode w = .ok i) ↔ ∃! r, r ∈ opcodeTable ∧ w &&& r.mask = r.bits) ∧
    (∀ r₁ ∈ opcodeTable, ∀ r₂ ∈ opcodeTable, w &&& r₁.mask = r₁.bits → w &&& r₂.mask = r₂.bits → r₁ = r₂) ∧
    (∀ i, decode w = .ok i → ∀ r ∈ opcodeTable, w &&& r.mask = r.bits → r.mnemonic = i.mnemonic)

/-- The example words of R100, the legal and the illegal ones. -/
def Obligations.ExampleWordsDecode : Prop :=
  decode 0x00000000#32 = .ok .nop ∧ decode 0x01000000#32 = .ok .kcommit ∧
  decode 0x02000000#32 = .ok .rclr ∧ decode 0x03000000#32 = .ok .filt ∧
  decode 0x04000000#32 = .ok .spec ∧ decode 0x05000000#32 = .ok .accum ∧
  decode 0x06000000#32 = .ok .aclr ∧ decode 0x07000000#32 = .ok .domsel ∧
  decode 0x08000007#32 = .ok (.domset 7) ∧ decode 0x080000DB#32 = .ok (.domset 219) ∧
  decode 0x09000000#32 = .ok (.cls .xin) ∧ decode 0x09000001#32 = .ok (.cls .spec) ∧
  (∀ w ∈ [0x0A000000#32, 0x03010000#32, 0x03000001#32, 0x09000002#32, 0xFF000000#32],
    ∀ i, decode w ≠ .ok i)

/-- R95: a word with a reserved opcode, a nonzero RSV field or a nonzero required-zero IMM16 bit raises
ILLEGAL in its engine step, whatever else the state is, and writes nothing but the five fields of R202. The
zero word is the legal NOP. -/
def Obligations.ReservedWordRaisesIllegal : Prop :=
  decode 0x00000000#32 = .ok .nop ∧
  ∀ s : State, EngineDue s →
    (10 ≤ s.cmdLast.toNat / 2 ^ 24 ∨ s.cmdLast.toNat / 2 ^ 16 % 256 ≠ 0 ∨
      (s.cmdLast.toNat / 2 ^ 24 ≤ 7 ∧ s.cmdLast.toNat % 2 ^ 16 ≠ 0) ∨
      (s.cmdLast.toNat / 2 ^ 24 = 9 ∧ s.cmdLast.toNat % 2 ^ 16 / 2 ≠ 0)) →
    step s = .next (erred .illegal (entering s))

/-! ### The step -/

/-- When the engine step is due and the accepted word decodes to a command, the step is that command's
meaning on the state, with the step's `rst_n` level used up and no transaction completed (R115). -/
def Obligations.StepRunsTheDecodedCommand : Prop :=
  ∀ (s : State) (i : Instr), Runs s i → step s = exec i (entering s)

/-- The host's step performs the next of its operations (R6, R62, R69, R98): a read gives its name the data on
the bus, a write is performed whole, an assignment and a wait for irq make no transaction, and a `wait` reads
STATUS and stays until BUSY reads 0. With no operation left nothing happens to the block. -/
def Obligations.HostStepPerformsTheNextOperation : Prop :=
  (∀ s : State, HostTurn s →
    (s.env.hostQ = [] → step s = .next (hostEntering [] s)) ∧
    (∀ off v q, s.env.hostQ = .write off v :: q →
      step s = .next (performWrite (off.offset s.env.names) (v.word s.env.names) (hostEntering q s))) ∧
    (∀ off n q, s.env.hostQ = .read off n :: q →
      ∃ w, (performRead (off.offset s.env.names) (hostEntering q s)).env.busOut = some (.read w) ∧
        step s = .next (named n w.toNat (performRead (off.offset s.env.names) (hostEntering q s)))) ∧
    (∀ n v q, s.env.hostQ = .assign n v :: q →
      step s = .next (named n (v.eval s.env.names) (hostEntering q s))) ∧
    (∀ q, s.env.hostQ = .wait :: q →
      ∃ w, performRead 0x008#16 s = readDone w s ∧ w.getLsbD 0 = s.status.busy ∧
        step s = .next (named ['s'] w.toNat
          (readDone w (hostEntering (if s.status.busy then s.env.hostQ else q) s)))) ∧
    (∀ q, s.env.hostQ = .waitIrq :: q →
      step s = .next (hostEntering (if s.irq then q else s.env.hostQ) s))) ∧
  ∀ n m v names, lookupName m (bindName n v names) = if m = n then some v else lookupName m names

/-- From R200: no step stops the machine; a command error is a next state and a bus access never raises one. -/
def Obligations.EveryStepAnswersANextState : Prop := ∀ s : State, ∃ t, step s = .next t

/-- R243: what reset leaves, for every piece of state that has a reset value. -/
def Obligations.ResetStateHasTheSpecifiedValues : Prop :=
  State.reset.HasResetValues ∧ State.reset.mode = .idle ∧ State.reset.irq = false ∧
  readReg State.reset .id = 0x43574631#32 ∧ readReg State.reset .paramN = 441#32 ∧
  readReg State.reset .paramKmax = 1023#32 ∧ readReg State.reset .paramNbins = 220#32

/-- The model's form of the unspecified reset contents (R51; log 2, a free value): each reset draws every entry
of KMEM, KACT, IBUF, OBUF and SPEC anew. -/
def Obligations.EachResetDrawsTheUnspecifiedMemories : Prop :=
  ∀ s : State, s.rstHigh = false →
    ∃ t, step s = .next t ∧ t.env.drawNo = s.env.drawNo + 1 ∧
      (∀ i : Fin 1023, t.kmem[i] = Config.kmemAtReset s.env.drawNo i ∧
        t.kact[i] = Config.kactAtReset s.env.drawNo i) ∧
      (∀ i : Fin 441, t.ibuf[i] = Config.ibufAtReset s.env.drawNo i ∧
        t.obuf[i] = Config.obufAtReset s.env.drawNo i) ∧
      (∀ k : Fin 220, t.spec[k] = Config.specAtReset s.env.drawNo k)

/-- The invariant of the block holds at reset. -/
def Obligations.InvariantHoldsAtReset : Prop := State.reset.Inv

/-- Every step keeps the invariant of the block. -/
def Obligations.EveryStepKeepsTheInvariant : Prop :=
  ∀ s t : State, s.Inv → step s = .next t → t.Inv

/-- R240: while `rst_n` is low the block takes its reset state, whatever else is pending; the host's
transactions stay pending and none is acknowledged. -/
def Obligations.HardResetOverridesEverything : Prop :=
  ∀ s : State, s.rstHigh = false →
    ∃ t, step s = .next t ∧ t.HasResetValues ∧ t.mode = .idle ∧ t.irq = false ∧
      t.env.hostQ = s.env.hostQ ∧ t.env.busOut = none ∧ t.env.engineWait = 0

/-- R241: a write of CTRL.SRST, in any mode, leaves the state a hard reset at that step would leave, but for
the host's own progress; in particular a command in flight is abandoned. -/
def Obligations.SoftResetEqualsHardReset : Prop :=
  ∀ (s : State) (off : Half) (v : Word), HostWrites s off v → IsSoftReset off v →
    ∃ t u, step s = .next t ∧
      step (rstAsserted s) = .next u ∧
      t.HasResetValues ∧ t.status.busy = false ∧ t = { u with env := t.env } ∧
      t.env.engineWait = 0 ∧ t.env.hostQ = s.env.hostQ.tail ∧ t.env.names = s.env.names

/-! ### Control commands -/

/-- R116: NOP completes and changes nothing but BUSY and DONE. -/
def Obligations.NopOnlyCompletes : Prop :=
  encode .nop = 0x00000000#32 ∧
  ∀ s : State, exec .nop s = .next { s with status := { s.status with busy := false, done := true } }

/-- R117: KCOMMIT refuses a length that is 0, even or above KMAX; otherwise it latches the staged kernel, clears
the remainder and changes nothing else. -/
def Obligations.KcommitLatchesTheKernel : Prop :=
  encode .kcommit = 0x01000000#32 ∧
  ∀ s : State,
    (s.klen.toNat = 0 ∨ s.klen.toNat % 2 = 0 ∨ 1023 < s.klen.toNat →
      exec .kcommit s = .next (erred .badklen s)) ∧
    (s.klen.toNat % 2 = 1 ∧ s.klen.toNat ≤ 1023 →
      ∃ t, exec .kcommit s = .next t ∧
        (∀ i < 1023, t.kact[i]! = if i < s.klen.toNat then s.kmem[i]! else s.kact[i]!) ∧
        t.kactlen.val = s.klen.toNat ∧ (∀ j < 1022, t.rem[j]! = 0#64) ∧
        t = { s with
              kact := t.kact, kactlen := t.kactlen, rem := t.rem
              status := { s.status with kvalid := true, busy := false, done := true } })

/-- R118: RCLR clears every remainder entry and changes nothing else; it needs no kernel. -/
def Obligations.RclrClearsTheRemainder : Prop :=
  encode .rclr = 0x02000000#32 ∧
  ∀ s : State, ∃ t, exec .rclr s = .next t ∧ (∀ j < 1022, t.rem[j]! = 0#64) ∧
    t = { s with rem := t.rem, status := { s.status with busy := false, done := true } }

/-- R112 and R204, with the codes of R201: the engine step reports the first failed check, with its code, and
writes nothing but the five fields of R202; a command that passes its checks raises no error. -/
def Obligations.EngineReportsTheFirstFailedCheck : Prop :=
  ∀ s : State, EngineDue s →
    ∃ t, step s = .next t ∧
      (∀ c, firstFailed s = some c → t = erred c (entering s) ∧
        performRead 0x014#16 t = readDone (BitVec.ofNat 32 (codeNumber c)) t) ∧
      (firstFailed s = none → t.status.err = s.status.err ∧ t.errcode = s.errcode ∧ t.errcmd = s.errcmd ∧
        t.status.busy = false ∧ t.status.done = true)

/-! ### The filter -/

/-- R131 to R133: FILT without a kernel is refused; otherwise its outputs, the new remainder, SAT, and nothing
else. -/
def Obligations.FiltFiltersOneBlock : Prop :=
  encode .filt = 0x03000000#32 ∧
  ∀ s : State,
    (s.status.kvalid = false → exec .filt s = .next (erred .nokernel s)) ∧
    (s.status.kvalid = true →
      ∃ t, exec .filt s = .next t ∧
        (∀ n < 441, (t.obuf[n]!).toInt = clamp16 (rounded30 (carried s n))) ∧
        (∀ j < 1022, if j + 1 < s.kactlen.val then (t.rem[j]!).toInt ≡ carried s (441 + j) [ZMOD 2 ^ 64]
          else t.rem[j]! = s.rem[j]!) ∧
        (t.status.sat = true ↔ s.status.sat = true ∨
          ∃ n < 441, rounded30 (carried s n) < -32768 ∨ 32767 < rounded30 (carried s n)) ∧
        t = { s with
              obuf := t.obuf, rem := t.rem
              status := { s.status with obufv := true, sat := t.status.sat, busy := false, done := true } })

/-- R135: block-by-block filtering equals filtering the whole signal, exactly, and the remainder is the
tail of the whole convolution. -/
def Obligations.StreamingEqualsBatchFiltering : Prop :=
  ∀ (s : State) (blocks : Nat → Vector Half 441) (b : Nat),
    s.status.kvalid = true → (∀ j, j + 1 < s.kactlen.val → s.rem[j]! = 0#64) →
    (∀ n < 441, ((stream s blocks (b + 1)).obuf[n]!).toInt =
      clamp16 (rounded30 (∑ i ∈ Finset.range s.kactlen.val,
        if i ≤ b * 441 + n then (s.kact[i]!).toInt * signal blocks (b * 441 + n - i) else 0))) ∧
    (∀ j, j + 1 < s.kactlen.val → ((stream s blocks (b + 1)).rem[j]!).toInt =
      ∑ i ∈ Finset.range s.kactlen.val,
        if j + 1 ≤ i ∧ i ≤ b * 441 + 441 + j then (s.kact[i]!).toInt * signal blocks (b * 441 + 441 + j - i)
        else 0)

/-- R136: the linear convolution is below 2^56, and so is everything a stream of FILTs carries, so that storing
a remainder entry never wraps. -/
def Obligations.ConvolutionStaysBelowTwoPow56 : Prop :=
  (∀ (s : State) (t : Nat), |convolution s t| < 2 ^ 56) ∧
  ∀ (s : State) (blocks : Nat → Vector Half 441) (b : Nat),
    s.status.kvalid = true → (∀ j, j + 1 < s.kactlen.val → s.rem[j]! = 0#64) →
    (∀ t, |carried { stream s blocks b with ibuf := blocks b } t| < 2 ^ 56) ∧
    (∀ j, j + 1 < s.kactlen.val → |((stream s blocks b).rem[j]!).toInt| < 2 ^ 56 ∧
      ((stream s blocks (b + 1)).rem[j]!).toInt =
        carried { stream s blocks b with ibuf := blocks b } (441 + j))

/-! ### The spectrum and the dominant bin -/

/-- R153, R154: SPEC without a filtered block is refused; otherwise it computes the magnitude of every retained
bin and changes nothing else. -/
def Obligations.SpecComputesTheMagnitudes : Prop :=
  encode .spec = 0x04000000#32 ∧
  ∀ s : State,
    (s.status.obufv = false → exec .spec s = .next (erred .noobuf s)) ∧
    (s.status.obufv = true →
      ∃ t, exec .spec s = .next t ∧
        (∀ k < 220, (t.spec[k]!).toNat =
          Nat.sqrt ((dftRe (block s) k ^ 2 + dftIm (block s) k ^ 2).toNat / 2 ^ 52)) ∧
        t = { s with
              spec := t.spec, status := { s.status with specv := true, busy := false, done := true } })

/-- The facts R152 gives of the tables W, C and S. -/
def Obligations.TablesHaveTheStatedFacts : Prop :=
  romW 0 = 0 ∧ romW 440 = 0 ∧ romW 220 = 32768 ∧ (∀ x ≤ 440, romW x = romW (440 - x)) ∧
  ∑ x ∈ Finset.range 441, romW x = 220 * 2 ^ 15 ∧ romC 0 = 32768 ∧ romS 0 = 0 ∧
  ∀ t < 441, 1073698442 ≤ romC t ^ 2 + romS t ^ 2 ∧ romC t ^ 2 + romS t ^ 2 ≤ 1073779514

/-- From R155: the real and imaginary parts are at most N·2^45 in size, and a computed magnitude is at most
sqrt(2)·N·2^19, below 2^29. -/
def Obligations.MagnitudesStayInRange : Prop :=
  (∀ (s : State) (k : Nat), |dftRe (block s) k| ≤ 441 * 2 ^ 45 ∧ |dftIm (block s) k| ≤ 441 * 2 ^ 45) ∧
  ∀ s t : State, s.status.obufv = true → exec .spec s = .next t →
    ∀ k < 220, (t.spec[k]!).toNat ^ 2 ≤ 2 * 441 ^ 2 * 2 ^ 38 ∧ (t.spec[k]!).toNat < 2 ^ 29

/-- R156: ACCUM without a spectrum is refused; otherwise it adds the spectrum to the bin sums, both counts
saturating, and changes nothing else. -/
def Obligations.AccumAddsTheSpectrum : Prop :=
  encode .accum = 0x05000000#32 ∧
  ∀ s : State,
    (s.status.specv = false → exec .accum s = .next (erred .nospec s)) ∧
    (s.status.specv = true →
      ∃ t, exec .accum s = .next t ∧
        (∀ k < 220, (t.acc[k]!).toNat = min (2 ^ 64 - 1) ((s.acc[k]!).toNat + (s.spec[k]!).toNat)) ∧
        t.blkcnt.toNat = min (2 ^ 32 - 1) (s.blkcnt.toNat + 1) ∧
        (t.status.asat = true ↔ s.status.asat = true ∨
          (∃ k < 220, 2 ^ 64 - 1 < (s.acc[k]!).toNat + (s.spec[k]!).toNat) ∨ s.blkcnt.toNat = 2 ^ 32 - 1) ∧
        t = { s with
              acc := t.acc, blkcnt := t.blkcnt
              status := { s.status with asat := t.status.asat, busy := false, done := true } })

/-- R157: ACLR empties the analysis window and changes nothing else; ASAT, DOM and DOMV stay. -/
def Obligations.AclrEmptiesTheWindow : Prop :=
  encode .aclr = 0x06000000#32 ∧
  ∀ s : State, ∃ t, exec .aclr s = .next t ∧ (∀ k < 220, t.acc[k]! = 0#64) ∧
    t = { s with acc := t.acc, blkcnt := 0#32, status := { s.status with busy := false, done := true } }

/-- R158: DOMSEL on an empty window is refused; otherwise it selects the lowest index of a greatest sum and
changes nothing else. -/
def Obligations.DomselSelectsTheLowestMaximum : Prop :=
  encode .domsel = 0x07000000#32 ∧
  ∀ s : State,
    (s.blkcnt = 0#32 → exec .domsel s = .next (erred .nodata s)) ∧
    (s.blkcnt ≠ 0#32 →
      ∃ d : Fin 220,
        exec .domsel s = .next { s with
          dom := d, status := { s.status with domv := true, busy := false, done := true } } ∧
        (∀ k : Fin 220, s.acc[k].toNat ≤ s.acc[d].toNat) ∧
        (∀ k : Fin 220, k < d → s.acc[k].toNat < s.acc[d].toNat))

/-- R160: over an analysis window of n blocks in which nothing saturated (ASAT is sticky, so it is 0 throughout
when it is 0 at the end), DOMSEL's bin maximises the average magnitude, the lowest index winning a tie. -/
def Obligations.DomselMaximisesTheAverage : Prop :=
  ∀ (s : State) (spectra : Nat → Vector Word 220) (n : Nat),
    s.status.specv = true → s.blkcnt = 0#32 → (∀ k < 220, s.acc[k]! = 0#64) → 0 < n →
    (window s spectra n).status.asat = false →
    (∀ k < 220, ((window s spectra n).acc[k]!).toNat = windowSum spectra n k) ∧
    (window s spectra n).blkcnt.toNat = n ∧
    ∃ t, exec .domsel (window s spectra n) = .next t ∧ t.status.domv = true ∧
      (∀ k < 220, average spectra n k ≤ average spectra n t.dom.val) ∧
      (∀ k < t.dom.val, average spectra n k < average spectra n t.dom.val)

/-- R159: DOMSET sets a retained bin and changes nothing else, with or without accumulated data; any other bin is
refused. -/
def Obligations.DomsetSetsTheBin : Prop :=
  (∀ bin < 2 ^ 16, (encode (.domset bin)).toNat = 0x08000000 + bin) ∧
  ∀ s : State,
    (∀ bin : Fin 220, exec (.domset bin.val) s = .next { s with
      dom := bin, status := { s.status with domv := true, busy := false, done := true } }) ∧
    (∀ bin, 220 ≤ bin → exec (.domset bin) s = .next (erred .badbin s))

/-! ### The comparator -/

/-- R182: CLS decides by the sign of the exact quadratic of R181, shifts the decision into CLSHIST and changes
nothing else, for both sources; SPEC[DOM] without a dominant bin or without a spectrum is refused, NODOM first. -/
def Obligations.ClsDecidesByTheQuadratic : Prop :=
  encode (.cls .xin) = 0x09000000#32 ∧ encode (.cls .spec) = 0x09000001#32 ∧
  ∀ s : State,
    (∀ (src : ClsSrc) (x : Word), clsSample s src = some x →
      ∃ t, exec (.cls src) s = .next t ∧
        (t.status.clsres = true ↔ 0 < coefA s * x.toNat ^ 2 + coefB s * x.toNat + coefC s) ∧
        t.clshist.getLsbD 0 = t.status.clsres ∧
        (∀ n < 31, t.clshist.getLsbD (n + 1) = s.clshist.getLsbD n) ∧
        t = { s with
              clshist := t.clshist
              status := { s.status with clsres := t.status.clsres, busy := false, done := true } }) ∧
    (s.status.domv = false → exec (.cls .spec) s = .next (erred .nodom s)) ∧
    (s.status.domv = true → s.status.specv = false → exec (.cls .spec) s = .next (erred .nospec s))

/-- R183: with CA = 0, CB = 2 and CC = -(lo + hi) the comparator decides x > (lo + hi) / 2, the rule of
ThresholdMidpoint and, with the two means, of KMeans; a sample at the midpoint decides 0. -/
def Obligations.MidpointProgrammingDecidesByTheMidpoint : Prop :=
  ∀ (s : State) (src : ClsSrc) (x : Word) (lo hi : Int), clsSample s src = some x →
    coefA s = 0 → coefB s = 2 → coefC s = -(lo + hi) →
    ∃ t, exec (.cls src) s = .next t ∧ (t.status.clsres = true ↔ ((lo + hi : Int) : ℚ) / 2 < x.toNat) ∧
      (lo < hi → (t.status.clsres = true ↔ |(x.toNat : Int) - hi| < |(x.toNat : Int) - lo|))

/-- From R184 and R185: the decision "responsibility of hi exceeds that of lo" is the sign of
a·x² + b·x + c; with the coefficients of an EM fit scaled and rounded to within 1/2, the discriminant is off by at
most (x² + x + 1)/2, so CLS agrees with the fit for every sample outside that margin. The fit as real numbers, with
either value of GAUSS_DIV, is the model's form of it (log 18). -/
def Obligations.ClsAgreesWithTheFittedDecision : Prop :=
  ∀ (s : State) (src : ClsSrc) (x : Word) (g wHi muHi vHi wLo muLo vLo scale : ℝ),
    clsSample s src = some x → g = 1 ∨ g = 2 → 0 < wHi → 0 < wLo → 0 < vHi → 0 < vLo → 0 < scale →
    |(coefA s : ℝ) - scale * fitA g vHi vLo| ≤ 1 / 2 →
    |(coefB s : ℝ) - scale * fitB g muHi vHi muLo vLo| ≤ 1 / 2 →
    |(coefC s : ℝ) - scale * fitC g wHi muHi vHi wLo muLo vLo| ≤ 1 / 2 →
    let fit := fitA g vHi vLo * (x.toNat : ℝ) ^ 2 + fitB g muHi vHi muLo vLo * x.toNat +
      fitC g wHi muHi vHi wLo muLo vLo
    let margin := ((x.toNat : ℝ) ^ 2 + x.toNat + 1) / 2
    (responsibility g wLo muLo vLo x.toNat < responsibility g wHi muHi vHi x.toNat ↔ 0 < fit) ∧
    |((coefA s * x.toNat ^ 2 + coefB s * x.toNat + coefC s : Int) : ℝ) - scale * fit| ≤ margin ∧
    ∃ t, exec (.cls src) s = .next t ∧
      (margin < |scale * fit| → (t.status.clsres = true ↔
        responsibility g wLo muLo vLo x.toNat < responsibility g wHi muHi vHi x.toNat))

/-! ### Errors, flags and interrupts -/

/-- R114, R202: a command either raises an error, which writes only the five fields of R202 with the command
word in ERRCMD and halts the block, or completes, which leaves ERR, ERRCODE and ERRCMD alone. Either way BUSY
falls and DONE rises, and the model's own fields are untouched. -/
def Obligations.CommandsErrPreciselyOrComplete : Prop :=
  ∀ (i : Instr) (s t : State), exec i s = .next t →
    t.status.busy = false ∧ t.status.done = true ∧ t.env = s.env ∧
    ((∃ c, c ≠ .none ∧ c ≠ .numeric ∧ t = erred c s ∧ t.mode = .halted) ∨
      (t.status.err = s.status.err ∧ t.errcode = s.errcode ∧ t.errcmd = s.errcmd ∧ t.cmdLast = s.cmdLast ∧
        t.status.haz = s.status.haz ∧ (s.status.err = false → t.mode = .idle)))

/-- R23, R25, R205, R26: host writes to CTRL, STATUS and IE, in every mode. CTRL reads 0; a write of it with bit 0
clear has no effect, and one with bit 0 set leaves the reset values; writing STATUS bit 2 is the error return. -/
def Obligations.StatusAndEnableWrites : Prop :=
  ∀ (s : State) (off : Half) (v : Word),
    (aligned off = 0x004 → performRead off s = readDone 0#32 s ∧
      (v.getLsbD 0 = false → performWrite off v s = writeDone s) ∧
      (v.getLsbD 0 = true → ∃ t, performWrite off v s = writeDone t ∧ t.HasResetValues)) ∧
    (aligned off = 0x008 → performWrite off v s = writeDone { s with status := { s.status with
      done := s.status.done && !v.getLsbD 1, err := s.status.err && !v.getLsbD 2
      haz := s.status.haz && !v.getLsbD 3, sat := s.status.sat && !v.getLsbD 4
      asat := s.status.asat && !v.getLsbD 5 } }) ∧
    (aligned off = 0x00C → performWrite off v s = writeDone { s with
      ie := { doneIe := v.getLsbD 0, errIe := v.getLsbD 1, hazIe := v.getLsbD 2 } })

/-- R111: a CMD write is accepted in mode IDLE and dropped with HAZ otherwise; it never decodes the word.
The latency drawn at acceptance is any number (R262). -/
def Obligations.CmdWriteIsAcceptedOnlyWhenIdle : Prop :=
  ∀ (s : State) (off : Half) (w : Word), aligned off = 0x010 →
    (s.mode = .idle → ∃ latency draws, performWrite off w s = writeDone { s with
      cmdLast := w, status := { s.status with busy := true, done := false }
      env := { s.env with engineWait := latency, drawNo := draws } }) ∧
    (s.mode ≠ .idle → performWrite off w s = writeDone { s with status := { s.status with haz := true } })

/-- From R206 and R207: the block leaves mode HALTED only by a reset or by a host write of STATUS with bit 2 set, and
while it is HALTED no command is accepted and no second error is raised. -/
def Obligations.HaltedIsLeftOnlyByTheHost : Prop :=
  ∀ s t : State, s.mode = .halted → step s = .next t → ¬ Resets s →
    t.cmdLast = s.cmdLast ∧ t.errcode = s.errcode ∧ t.errcmd = s.errcmd ∧
    (t.mode = .halted ∨
      (t.mode = .idle ∧ ∃ off v, HostWrites s off v ∧ aligned off = 0x008 ∧ v.getLsbD 2 = true))

/-- R27: `irq` is 1 exactly when a pending bit of the STATUS word the host reads has its enable set in the IE
word the host reads. -/
def Obligations.IrqFollowsStatusAndEnables : Prop :=
  ∀ (s : State) (f e : Word), performRead 0x008#16 s = readDone f s → performRead 0x00C#16 s = readDone e s →
    (s.irq = true ↔ (f >>> 1) &&& e ≠ 0#32)

/-- From R24 and R39: every flag stands at its bit of the STATUS word, and the reserved bits read 0. -/
def Obligations.StatusWordShowsEveryFlag : Prop :=
  ∀ s : State, ∃ w, performRead 0x008#16 s = readDone w s ∧
    w.getLsbD 0 = s.status.busy ∧ w.getLsbD 1 = s.status.done ∧ w.getLsbD 2 = s.status.err ∧
    w.getLsbD 3 = s.status.haz ∧ w.getLsbD 4 = s.status.sat ∧ w.getLsbD 5 = s.status.asat ∧
    w.getLsbD 6 = s.status.kvalid ∧ w.getLsbD 7 = s.status.obufv ∧ w.getLsbD 8 = s.status.specv ∧
    w.getLsbD 9 = s.status.domv ∧ w.getLsbD 10 = s.status.clsres ∧ (∀ n, 11 ≤ n → w.getLsbD n = false)

/-! ### The register window -/

/-- R22 to R38: the value of each register at reset; what a read of it returns, in every mode, and that it touches
nothing (R66); that writes to the read-only registers have no effect; and what a write to CTRL, IE, CMD, KLEN and
XIN leaves. -/
def Obligations.RegistersReadTheirValues : Prop :=
  State.reset.HasResetValues ∧
  (∀ s : State,
    performRead 0x000#16 s = readDone 0x43574631#32 s ∧ performRead 0x004#16 s = readDone 0#32 s ∧
    (∃ w, performRead 0x00C#16 s = readDone w s ∧ w.getLsbD 0 = s.ie.doneIe ∧ w.getLsbD 1 = s.ie.errIe ∧
      w.getLsbD 2 = s.ie.hazIe ∧ ∀ n, 3 ≤ n → w.getLsbD n = false) ∧
    performRead 0x010#16 s = readDone s.cmdLast s ∧
    performRead 0x014#16 s = readDone (BitVec.ofNat 32 s.errcode.code.toNat) s ∧
    performRead 0x018#16 s = readDone s.errcmd s ∧
    performRead 0x01C#16 s = readDone (BitVec.ofNat 32 s.klen.toNat) s ∧
    performRead 0x020#16 s = readDone (BitVec.ofNat 32 s.kactlen.val) s ∧
    performRead 0x024#16 s = readDone (BitVec.ofNat 32 s.dom.val) s ∧
    performRead 0x028#16 s = readDone s.blkcnt s ∧ performRead 0x02C#16 s = readDone s.xin s ∧
    performRead 0x030#16 s = readDone s.caLo s ∧ performRead 0x034#16 s = readDone s.caHi s ∧
    performRead 0x038#16 s = readDone s.cbLo s ∧ performRead 0x03C#16 s = readDone s.cbHi s ∧
    performRead 0x040#16 s = readDone s.ccLo s ∧ performRead 0x044#16 s = readDone s.ccHi s ∧
    performRead 0x048#16 s = readDone s.clshist s ∧ performRead 0x04C#16 s = readDone 441#32 s ∧
    performRead 0x050#16 s = readDone 1023#32 s ∧ performRead 0x054#16 s = readDone 220#32 s) ∧
  ∀ (s : State) (v : Word),
    (∀ off ∈ [0x000#16, 0x014#16, 0x018#16, 0x020#16, 0x024#16, 0x028#16, 0x04C#16, 0x050#16, 0x054#16],
      performWrite off v s = writeDone s) ∧
    (v.getLsbD 0 = false → performWrite 0x004#16 v s = writeDone s) ∧
    (v.getLsbD 0 = true → ∃ t, performWrite 0x004#16 v s = writeDone t ∧ t.HasResetValues) ∧
    performWrite 0x00C#16 v s = writeDone { s with
      ie := { doneIe := v.getLsbD 0, errIe := v.getLsbD 1, hazIe := v.getLsbD 2 } } ∧
    (s.mode = .idle → (performWrite 0x010#16 v s).cmdLast = v ∧ (performWrite 0x010#16 v s).mode = .busy) ∧
    (s.mode ≠ .idle → performWrite 0x010#16 v s = writeDone { s with status := { s.status with haz := true } }) ∧
    (s.status.busy = false → performWrite 0x01C#16 v s = writeDone { s with klen := v.setWidth 16 } ∧
      performWrite 0x02C#16 v s = writeDone { s with xin := v })

/-- R36, R37: the halves of CA, CB and CC are written one by one and read together as signed 64-bit numbers; at
reset they are 0, and with all three 0 every CLS decides 0. CLSHIST takes a host write whole, and its bit 0 is the
newest decision. -/
def Obligations.CoefficientsAreWrittenByHalves : Prop :=
  (∀ (s : State) (lo hi : Word), s.status.busy = false →
    performWrite 0x030#16 lo s = writeDone { s with caLo := lo } ∧
    performWrite 0x034#16 hi s = writeDone { s with caHi := hi } ∧
    performWrite 0x038#16 lo s = writeDone { s with cbLo := lo } ∧
    performWrite 0x03C#16 hi s = writeDone { s with cbHi := hi } ∧
    performWrite 0x040#16 lo s = writeDone { s with ccLo := lo } ∧
    performWrite 0x044#16 hi s = writeDone { s with ccHi := hi } ∧
    performWrite 0x048#16 lo s = writeDone { s with clshist := lo } ∧
    coefA (performWrite 0x034#16 hi (performWrite 0x030#16 lo s)) = (hi ++ lo).toInt ∧
    coefB (performWrite 0x03C#16 hi (performWrite 0x038#16 lo s)) = (hi ++ lo).toInt ∧
    coefC (performWrite 0x044#16 hi (performWrite 0x040#16 lo s)) = (hi ++ lo).toInt) ∧
  coefA State.reset = 0 ∧ coefB State.reset = 0 ∧ coefC State.reset = 0 ∧ State.reset.clshist = 0#32 ∧
  ∀ (s : State) (src : ClsSrc) (x : Word), clsSample s src = some x →
    ∃ t, exec (.cls src) s = .next t ∧
      t.clshist = (s.clshist <<< 1) ||| (if t.status.clsres then 1#32 else 0#32) ∧
      (coefA s = 0 → coefB s = 0 → coefC s = 0 → t.status.clsres = false)

/-- From R40 and R42 to R46: what a read of each memory entry returns when no command is in flight, and that it
touches nothing (R66). -/
def Obligations.MemoriesReadTheirEntries : Prop :=
  ∀ s : State, s.status.busy = false →
    (∀ i < 1023, performRead (at' (0x1000 + 4 * i)) s = readDone s.kmem[i]! s) ∧
    (∀ j < 1022, performRead (at' (0x2000 + 8 * j)) s = readDone (s.rem[j]!.setWidth 32) s ∧
      performRead (at' (0x2000 + 8 * j + 4)) s = readDone ((s.rem[j]! >>> 32).setWidth 32) s) ∧
    (∀ i < 441, performRead (at' (0x4000 + 4 * i)) s = readDone (BitVec.ofInt 32 (s.ibuf[i]!).toInt) s) ∧
    (∀ i < 441, performRead (at' (0x5000 + 4 * i)) s = readDone (BitVec.ofInt 32 (s.obuf[i]!).toInt) s) ∧
    (∀ k < 220, performRead (at' (0x6000 + 4 * k)) s = readDone s.spec[k]! s) ∧
    (∀ k < 220, performRead (at' (0x8000 + 8 * k)) s = readDone (s.acc[k]!.setWidth 32) s ∧
      performRead (at' (0x8000 + 8 * k + 4)) s = readDone ((s.acc[k]! >>> 32).setWidth 32) s)

/-- R64: a read at an unmapped offset returns 0; a write at an unmapped offset or to a read-only location has
no effect, in any mode. -/
def Obligations.UnmappedAndReadOnlyAccesses : Prop :=
  ∀ (s : State) (off : Half) (v : Word),
    (Unmapped off → performRead off s = readDone 0#32 s) ∧
    (Unmapped off ∨ ReadOnly off → performWrite off v s = writeDone s)

/-- Bits 1:0 of an offset are ignored (from R63). -/
def Obligations.LowOffsetBitsAreIgnored : Prop :=
  ∀ (s : State) (off off' : Half) (v : Word), aligned off = aligned off' →
    performRead off s = performRead off' s ∧ performWrite off v s = performWrite off' v s

/-- From R31, R35 to R37, R40, R42 and R43: with no command in flight a host write to a read-write location stores its
value there and changes nothing else. -/
def Obligations.HostWritesReachTheirLocation : Prop :=
  ∀ (s : State) (v : Word), s.status.busy = false →
    performWrite 0x01C#16 v s = writeDone { s with klen := v.setWidth 16 } ∧
    performWrite 0x02C#16 v s = writeDone { s with xin := v } ∧
    performWrite 0x030#16 v s = writeDone { s with caLo := v } ∧
    performWrite 0x034#16 v s = writeDone { s with caHi := v } ∧
    performWrite 0x038#16 v s = writeDone { s with cbLo := v } ∧
    performWrite 0x03C#16 v s = writeDone { s with cbHi := v } ∧
    performWrite 0x040#16 v s = writeDone { s with ccLo := v } ∧
    performWrite 0x044#16 v s = writeDone { s with ccHi := v } ∧
    performWrite 0x048#16 v s = writeDone { s with clshist := v } ∧
    (∀ i : Fin 1023, performWrite (at' (0x1000 + 4 * i)) v s = writeDone { s with kmem := s.kmem.set i v }) ∧
    (∀ j : Fin 1022, performWrite (at' (0x2000 + 8 * j)) v s =
      writeDone { s with rem := s.rem.set j (s.rem[j].extractLsb' 32 32 ++ v) } ∧
      performWrite (at' (0x2000 + 8 * j + 4)) v s =
        writeDone { s with rem := s.rem.set j (v ++ s.rem[j].extractLsb' 0 32) }) ∧
    (∀ i : Fin 441, performWrite (at' (0x4000 + 4 * i)) v s =
      writeDone { s with ibuf := s.ibuf.set i (v.setWidth 16) })

/-- R67: while BUSY a host write to any offset but CTRL, STATUS and IE is dropped: it sets HAZ when the
location is writable and has no effect when it is not. A write to a location that is not writable has no effect
in any mode. -/
def Obligations.BusyDropsHostWrites : Prop :=
  (∀ (s : State) (off : Half) (v : Word), s.status.busy = true →
    aligned off ≠ 0x004 → aligned off ≠ 0x008 → aligned off ≠ 0x00C →
    (DroppedWhileBusy off ∧ performWrite off v s = writeDone { s with status := { s.status with haz := true } }) ∨
    (¬ DroppedWhileBusy off ∧ (Unmapped off ∨ ReadOnly off) ∧ performWrite off v s = writeDone s)) ∧
  ∀ (s : State) (off : Half) (v : Word), Unmapped off ∨ ReadOnly off → performWrite off v s = writeDone s

/-- R113, R251: a read while a command is in flight. Registers and memory entries outside the command's write set
read their current values, BUSY as 1 and DONE as 0; an entry inside it reads a free value, drawn for that read.
A command that is going to raise an error, an illegal word included, writes no memory entry (R49), so then every
entry reads its current value. With no command in flight every location reads its value, the new one after a
completion. -/
def Obligations.ReadsWhileBusy : Prop :=
  (∀ (s : State) (off : Half), s.status.busy = false → performRead off s = readDone (readLoc s (locOf off)) s) ∧
  ∀ (s : State) (off : Half), s.status.busy = true →
    (∀ i, decode s.cmdLast = .ok i →
      (firstFailed s = none → InWriteSet i s off →
        performRead off s = { readDone (Config.busyWord s.env.drawNo) s with
          env := { (readDone (Config.busyWord s.env.drawNo) s).env with drawNo := s.env.drawNo + 1 } }) ∧
      (¬ InWriteSet i s off → performRead off s = readDone (readLoc s (locOf off)) s)) ∧
    (firstFailed s ≠ none → performRead off s = readDone (readLoc s (locOf off)) s) ∧
    (∃ w, performRead 0x008#16 s = readDone w s ∧ w.getLsbD 0 = true ∧ (s.Inv → w.getLsbD 1 = false))

/-- From R215: a remainder entry read word by word and written back word by word, at any later idle state, is
restored. -/
def Obligations.RemainderSurvivesSaveAndRestore : Prop :=
  ∀ (s u : State) (j : Fin 1022) (lo hi : Word), s.status.busy = false → u.status.busy = false →
    performRead (at' (0x2000 + 8 * j)) s = readDone lo s →
    performRead (at' (0x2000 + 8 * j + 4)) s = readDone hi s →
    performWrite (at' (0x2000 + 8 * j + 4)) hi (performWrite (at' (0x2000 + 8 * j)) lo u) =
      writeDone { u with rem := u.rem.set j s.rem[j] }

/-! ### Rules of the whole machine -/

/-- R161: DOM changes only through DOMSEL, DOMSET or reset. -/
def Obligations.DominantBinChangesOnlyByItsWriters : Prop :=
  ∀ s t : State, step s = .next t → t.dom ≠ s.dom →
    Resets s ∨ Runs s .domsel ∨ ∃ bin, Runs s (.domset bin)

/-- From R40, R41 and R43 to R46: each memory is written only by its writers: KACT by KCOMMIT, OBUF by FILT, SPEC by
SPEC, ACC by ACCUM and ACLR, REM by FILT, KCOMMIT, RCLR and the host, KMEM and IBUF by the host alone. -/
def Obligations.MemoriesChangeOnlyByTheirWriters : Prop :=
  ∀ s t : State, step s = .next t → ¬ Resets s →
    (t.kact ≠ s.kact ∨ t.kactlen ≠ s.kactlen → Runs s .kcommit) ∧
    (t.obuf ≠ s.obuf → Runs s .filt) ∧
    (t.spec ≠ s.spec → Runs s .spec) ∧
    (t.acc ≠ s.acc ∨ t.blkcnt ≠ s.blkcnt → Runs s .accum ∨ Runs s .aclr) ∧
    (t.rem ≠ s.rem → Runs s .filt ∨ Runs s .kcommit ∨ Runs s .rclr ∨
      ∃ off v, HostWrites s off v ∧ 0x2000 ≤ aligned off ∧ aligned off < 0x2000 + 8 * 1022) ∧
    (t.kmem ≠ s.kmem → ∃ off v, HostWrites s off v ∧ 0x1000 ≤ aligned off ∧
      aligned off < 0x1000 + 4 * 1023) ∧
    (t.ibuf ≠ s.ibuf → ∃ off v, HostWrites s off v ∧ 0x4000 ≤ aligned off ∧
      aligned off < 0x4000 + 4 * 441)

/-- From R24: KVALID, OBUFV, SPECV and DOMV are cleared by reset only, and set only by their commands. -/
def Obligations.ValidityFlagsFallOnlyByReset : Prop :=
  ∀ s t : State, step s = .next t → ¬ Resets s →
    (s.status.kvalid = true → t.status.kvalid = true) ∧ (s.status.obufv = true → t.status.obufv = true) ∧
    (s.status.specv = true → t.status.specv = true) ∧ (s.status.domv = true → t.status.domv = true) ∧
    (s.status.kvalid = false → t.status.kvalid = true → Runs s .kcommit) ∧
    (s.status.obufv = false → t.status.obufv = true → Runs s .filt) ∧
    (s.status.specv = false → t.status.specv = true → Runs s .spec) ∧
    (s.status.domv = false → t.status.domv = true → Runs s .domsel ∨ ∃ bin, Runs s (.domset bin))

/-- From R110 and R115: BUSY rises only by the acceptance of a CMD write in mode IDLE and falls only by the engine step
or a reset. -/
def Obligations.BusyRisesByAcceptanceAndFallsByTheEngine : Prop :=
  ∀ s t : State, step s = .next t → ¬ Resets s →
    (s.status.busy = false → t.status.busy = true →
      s.mode = .idle ∧ ∃ off, HostWrites s off t.cmdLast ∧ aligned off = 0x010) ∧
    (s.status.busy = true → t.status.busy = false → EngineDue s ∧ t.status.done = true)

/-- From R72 and R113: while a command is in flight, a step that is neither its engine step nor a reset leaves
everything a command can read as it is; only DONE, ERR, HAZ, SAT, ASAT and IE can change. -/
def Obligations.InputsOfACommandInFlightAreFixed : Prop :=
  ∀ s t : State, s.status.busy = true → ¬ EngineDue s → ¬ Resets s → step s = .next t →
    t = { s with
          status := { s.status with
            done := t.status.done, err := t.status.err, haz := t.status.haz, sat := t.status.sat
            asat := t.status.asat }
          ie := t.ie, env := t.env }

/-- A command's effect does not depend on the host's operations, on the latency or on the draws, and does not
change them (R10, R113). -/
def Obligations.ExecIgnoresTheEnvironment : Prop :=
  ∀ (i : Instr) (s t : State) (e : Env), exec i s = .next t →
    exec i { s with env := e } = .next { t with env := e }

/-- From R262: an accepted command is over, completed, in error or abandoned by a reset, after its latency and one
step, whatever the host and `rst_n` do. -/
def Obligations.AcceptedCommandEnds : Prop :=
  ∀ s : State, s.status.busy = true →
    ∃ k t, k ≤ s.env.engineWait + 1 ∧ core.run k s = .next t ∧ t.status.busy = false

/-- The result of a command does not depend on the schedule: if neither `rst_n` nor CTRL.SRST resets the
block, then after the command's latency and one step, whatever else the host did meanwhile, every register and
memory has the value the command's meaning gives from the state at the start (R69, R113, R262). -/
def Obligations.CommandResultIsIndependentOfTheSchedule : Prop :=
  ∀ (s u : State) (i : Instr), s.status.busy = true → s.status.err = false → decode s.cmdLast = .ok i →
    (∀ b ∈ s.env.rstQ, b = true) → (∀ op ∈ s.env.hostQ, ¬ MaySoftReset op) → exec i s = .next u →
    ∃ t : State, core.run (s.env.engineWait + 1) s = .next t ∧
      t = { u with
            status := { u.status with haz := t.status.haz, sat := t.status.sat, asat := t.status.asat }
            ie := t.ie, env := t.env }

/-- From R98: a `wait` loop ends, at the latest one step after the command in flight is over, and the STATUS word it
read last has BUSY = 0. -/
def Obligations.WaitLoopEnds : Prop :=
  ∀ (s : State) (q : List HostOp), s.env.hostQ = .wait :: q → (∀ b ∈ s.env.rstQ, b = true) →
    ∃ k t w, k ≤ s.env.engineWait + 2 ∧ core.run k s = .next t ∧ t.env.hostQ = q ∧
      t.env.busOut = some (.read w) ∧ w.getLsbD 0 = false ∧ lookupName ['s'] t.env.names = some w.toNat

/-- From R98, R111 and R262: from mode IDLE the host line `run <command line>`, for a line the assembler accepts,
gets its command accepted, executed and waited for. The host's operations are then used up and the block is in the
state the command's meaning gives from the state with the word accepted. -/
def Obligations.RunLineExecutesTheCommand : Prop :=
  ∀ (s u : State) (line : List Char) (w : Word) (i : Instr), s.mode = .idle →
    Asm.assembleLine line = some w → decode w = .ok i → (HostLine.run line).expand = some s.env.hostQ →
    (∀ b ∈ s.env.rstQ, b = true) →
    exec i { s with cmdLast := w, status := { s.status with busy := true, done := false } } = .next u →
    ∃ k t, core.run k s = .next t ∧ t.env.hostQ = [] ∧ t = { u with env := t.env }

/-- From R98: what each form of a host program expands to within the `for`s of the variables `vars`, the innermost
first, and on its own. Every expression of the line takes the variables' values, which hide what its names held before;
a command line takes them in its operands, as decimal digits, before the assembler of R97 reads or refuses it; and a
`for` within a `for` adds its variable to those around it. -/
def Obligations.HostProgramFormsExpandAsListed : Prop :=
  (∀ vars : List (HostName × Int),
    (∀ off v, (HostLine.wr off v).expandIn vars = some [.write (off.close vars) (v.close vars)]) ∧
    (∀ off n, (HostLine.rd off n).expandIn vars = some [.read (off.close vars) n]) ∧
    (∀ line, (HostLine.cmd line).expandIn vars =
      (commandWord vars line).map fun w => [.write (.num 0x010) (.num w.toNat)]) ∧
    HostLine.wait.expandIn vars = some [.wait] ∧
    (∀ i v, (HostLine.wrk i v).expandIn vars =
      some [.write (.add (.num 0x1000) (.mul (.num 4) (i.close vars))) (v.close vars)]) ∧
    (∀ i v, (HostLine.wri i v).expandIn vars =
      some [.write (.add (.num 0x4000) (.mul (.num 4) (i.close vars))) (.bits (v.close vars) 15 0)]) ∧
    (∀ off v, (HostLine.wr64 off v).expandIn vars = some [.write (off.close vars) (.bits (v.close vars) 31 0),
      .write (.add (off.close vars) (.num 4)) (.bits (v.close vars) 63 32)]) ∧
    (∀ off n, (HostLine.rd64 off n).expandIn vars = some [.read (off.close vars) ['l', 'o'],
      .read (.add (off.close vars) (.num 4)) ['h', 'i'], .assign n (.pair (.name ['h', 'i']) (.name ['l', 'o']))]) ∧
    (∀ m, (HostLine.clr m).expandIn vars = some [.write (.num 0x008) (m.close vars)]) ∧
    (∀ line, (HostLine.run line).expandIn vars =
      ((HostLine.cmd line).expandIn vars).map fun ops => ops ++ [.wait]) ∧
    (∀ n a b l, (HostLine.forIn n a b l).expandIn vars =
      if a ≤ b then
        ((List.range (b + 1 - a).toNat).mapM fun (i : Nat) => l.expandIn ((n, a + i) :: vars)).map List.flatten
      else none) ∧
    (∀ (e : HostExpr) names, (e.close vars).eval names = e.eval (vars ++ names)) ∧
    (∀ line, commandWord vars line =
      match Asm.wordsFrom line [] with
      | [] => none
      | m :: args => Asm.assembleWords (m :: args.map (closeWord vars))) ∧
    (∀ n k w, closeWord ((n, k) :: vars) w =
      if w = n then (if 0 ≤ k then Nat.toDigits 10 k.toNat else w) else closeWord vars w)) ∧
  (∀ l : HostLine, l.expand = l.expandIn []) ∧ (∀ e : HostExpr, e.close [] = e) ∧
  (∀ w, closeWord [] w = w) ∧ ∀ line, commandWord [] line = Asm.assembleLine line

/-- From R63, R65 and R98: `rd64` of an entry of REM or ACC, with no command in flight, gives its name the whole
64-bit entry and leaves the block alone. -/
def Obligations.ReadPairBindsTheWholeEntry : Prop :=
  ∀ (s : State) (off : Int) (n : HostName) (ops q : List HostOp), s.status.busy = false →
    (∀ b ∈ s.env.rstQ, b = true) → (HostLine.rd64 (.num off) n).expand = some ops → s.env.hostQ = ops ++ q →
    ∃ t, core.run 3 s = .next t ∧ t.env.hostQ = q ∧ t = { s with env := t.env } ∧
      (∀ j : Fin 1022, off = 0x2000 + 8 * j.val → lookupName n t.env.names = some (s.rem[j].toNat : Int)) ∧
      (∀ k : Fin 220, off = 0x8000 + 8 * k.val → lookupName n t.env.names = some (s.acc[k].toNat : Int))

/-- From R97: a line the assembler accepts becomes a word that decodes to the command the line names. -/
def Obligations.AssembledLineDecodesToItsCommand : Prop :=
  ∀ (line : List Char) (w : Word), Asm.assembleLine line = some w →
    ∃ i, Asm.parseWords (Asm.wordsFrom line []) = some i ∧ decode w = .ok i
end

