-- ==== Sys2Proof/Laws/Arith.lean ====
section
/-! SUPPORT. What the primitives of R11 and the memory builder compute, in the library's terms. -/

namespace Sys2Proof.Machine

theorem getElem_listFrom {α : Type} (f : Nat → α) (n k i : Nat) (h : i < (listFrom f n k).length) :
    (listFrom f n k)[i] = f (k + i) := by
  induction n generalizing k i with
  | zero => simp [listFrom] at h
  | succ n ih =>
    cases i with
    | zero => rfl
    | succ i =>
      have h' : i < (listFrom f n (k + 1)).length := by
        simpa [length_listFrom] using h
      have := ih (k + 1) i h'
      simp only [listFrom, List.getElem_cons_succ, this]
      congr 1; omega

/-- Element `i` of a tabulated memory. -/
@[simp] theorem getElem_tabulate {α : Type} (n : Nat) (f : Nat → α) (i : Nat) (h : i < n) :
    (tabulate n f)[i] = f i := by
  have := getElem_listFrom f n 0 i (by simpa [length_listFrom] using h)
  simpa [tabulate] using this

@[simp] theorem getElem?_tabulate {α : Type} (n : Nat) (f : Nat → α) (i : Nat) :
    (tabulate n f)[i]? = if i < n then some (f i) else none := by
  split
  · next h => rw [Vector.getElem?_eq_getElem h, getElem_tabulate]
  · next h => exact Vector.getElem?_eq_none (by omega)

@[simp] theorem getElem!_tabulate {α : Type} [Inhabited α] (n : Nat) (f : Nat → α) (i : Nat) (h : i < n) :
    (tabulate n f)[i]! = f i := by
  rw [getElem!_pos (tabulate n f) i h, getElem_tabulate]

/-- Reading with a default agrees with the element wherever there is one. -/
theorem getElem?_getD_eq {α : Type} [Inhabited α] {n : Nat} (v : Vector α n) (i : Nat) :
    v[i]?.getD default = v[i]! := by
  simp [getElem!_def]; split <;> simp_all

/-- `sumTo` is the finite sum over `0 ≤ i < n`. -/
theorem sumTo_eq_sum (f : Nat → Int) (n : Nat) : sumTo f n = ∑ i ∈ Finset.range n, f i := by
  induction n with
  | zero => rfl
  | succ n ih => rw [sumTo, Finset.sum_range_succ, ih]

/-- A sum of `n` terms of size at most `b` has size at most `n * b`. -/
theorem abs_sumTo_le (f : Nat → Int) (n : Nat) (b : Int) (h : ∀ i < n, |f i| ≤ b) : |sumTo f n| ≤ n * b := by
  induction n with
  | zero => simp [sumTo]
  | succ n ih =>
    have h1 := ih fun i hi => h i (Nat.lt_succ_of_lt hi)
    have h2 := h n (Nat.lt_succ_self n)
    have h3 := abs_add_le (sumTo f n) (f n)
    rw [sumTo]; push_cast; linarith

theorem anyFrom_iff (p : Nat → Bool) (n k : Nat) :
    anyFrom p n k = true ↔ ∃ i, k ≤ i ∧ i < k + n ∧ p i = true := by
  induction n generalizing k with
  | zero => simp only [anyFrom, Bool.false_eq_true, false_iff]; rintro ⟨i, h1, h2, -⟩; omega
  | succ n ih =>
    rw [anyFrom, Bool.or_eq_true, ih]
    constructor
    · rintro (h | ⟨i, h1, h2, h3⟩)
      · exact ⟨k, le_refl k, by omega, h⟩
      · exact ⟨i, by omega, by omega, h3⟩
    · rintro ⟨i, h1, h2, h3⟩
      rcases Nat.eq_or_lt_of_le h1 with rfl | h4
      · exact .inl h3
      · exact .inr ⟨i, h4, by omega, h3⟩

/-- The search of R158 finds the lowest index of a greatest value. -/
theorem argmaxTo_spec (f : Nat → Nat) (n : Nat) :
    (∀ k ≤ n, f k ≤ f (argmaxTo f n)) ∧ ∀ k < argmaxTo f n, f k < f (argmaxTo f n) := by
  induction n with
  | zero => exact ⟨fun k hk => by simp [argmaxTo, Nat.le_zero.mp hk], fun k hk => by simp [argmaxTo] at hk⟩
  | succ n ih =>
    rw [argmaxTo]
    split
    · next h =>
      refine ⟨fun k hk => ?_, fun k hk => ?_⟩
      · rcases Nat.lt_or_eq_of_le hk with h1 | rfl
        · have := ih.1 k (by omega); omega
        · exact le_refl _
      · have := ih.1 k (by omega); omega
    · next h =>
      refine ⟨fun k hk => ?_, ih.2⟩
      rcases Nat.lt_or_eq_of_le hk with h1 | rfl
      · exact ih.1 k (by omega)
      · omega

theorem isqrtBits_spec (v n r : Nat) (h1 : r * r ≤ v) (h2 : v < (r + 2 ^ n) * (r + 2 ^ n)) :
    isqrtBits v n r * isqrtBits v n r ≤ v ∧ v < (isqrtBits v n r + 1) * (isqrtBits v n r + 1) := by
  induction n generalizing r with
  | zero => simpa [isqrtBits] using ⟨h1, by simpa using h2⟩
  | succ n ih =>
    rw [isqrtBits]
    have hp : 2 ^ (n + 1) = 2 ^ n + 2 ^ n := by ring
    split
    · next h => exact ih _ h (by rw [hp] at h2; simpa [Nat.add_assoc] using h2)
    · next h => exact ih _ h1 (by omega)

/-- `isqrt` is the integer square root: the largest r with r × r ≤ v (R11). -/
theorem isqrt_spec (v : Nat) : isqrt v * isqrt v ≤ v ∧ v < (isqrt v + 1) * (isqrt v + 1) := by
  refine isqrtBits_spec v _ 0 (by simp) ?_
  have h : v < 2 ^ (Nat.log2 v + 1) := Nat.lt_log2_self
  have h2 : Nat.log2 v + 1 ≤ (Nat.log2 v / 2 + 1) + (Nat.log2 v / 2 + 1) := by omega
  calc v < 2 ^ (Nat.log2 v + 1) := h
    _ ≤ 2 ^ ((Nat.log2 v / 2 + 1) + (Nat.log2 v / 2 + 1)) := Nat.pow_le_pow_right (by norm_num) h2
    _ = _ := by rw [pow_add]; simp

theorem isqrt_eq_sqrt (v : Nat) : isqrt v = Nat.sqrt v :=
  (Nat.eq_sqrt.mpr (isqrt_spec v))

/-- A saturated value lies in the s16 range, so storing it in 16 bits loses nothing. -/
theorem sat16_mem (v : Int) : -32768 ≤ sat16 v ∧ sat16 v ≤ 32767 := by
  unfold sat16; omega

theorem toInt_ofInt_sat16 (v : Int) : (BitVec.ofInt 16 (sat16 v)).toInt = sat16 v := by
  have := sat16_mem v
  rw [BitVec.toInt_ofInt, Int.bmod_eq_of_le] <;> norm_num <;> omega

/-- Storing `wrap64(v)` in 64 bits reads back as `v` reduced modulo 2^64 into the signed range (R11). -/
theorem toInt_ofInt_wrap64 (v : Int) : (BitVec.ofInt 64 (wrap64 v)).toInt = wrap64 v := by
  rw [BitVec.toInt_ofInt, wrap64]; simp [Int.bmod_bmod]

/-- A value in the signed 64-bit range is not changed by `wrap64`. -/
theorem wrap64_of_mem (v : Int) (h1 : -2 ^ 63 ≤ v) (h2 : v < 2 ^ 63) : wrap64 v = v := by
  rw [wrap64, Int.bmod_eq_of_le] <;> norm_num <;> omega

end Sys2Proof.Machine
end

