-- ==== Sys2Proof/Laws/State.lean ====
section
/-! SUPPORT. What each shared update leaves in each field of the state. -/

namespace Sys2Proof.Machine

@[simp] theorem complete_status (s : State) : (complete s).status = { s.status with busy := false, done := true } := rfl
@[simp] theorem complete_ie (s : State) : (complete s).ie = s.ie := rfl
@[simp] theorem complete_cmdLast (s : State) : (complete s).cmdLast = s.cmdLast := rfl
@[simp] theorem complete_errcode (s : State) : (complete s).errcode = s.errcode := rfl
@[simp] theorem complete_errcmd (s : State) : (complete s).errcmd = s.errcmd := rfl
@[simp] theorem complete_klen (s : State) : (complete s).klen = s.klen := rfl
@[simp] theorem complete_kactlen (s : State) : (complete s).kactlen = s.kactlen := rfl
@[simp] theorem complete_dom (s : State) : (complete s).dom = s.dom := rfl
@[simp] theorem complete_blkcnt (s : State) : (complete s).blkcnt = s.blkcnt := rfl
@[simp] theorem complete_xin (s : State) : (complete s).xin = s.xin := rfl
@[simp] theorem complete_caLo (s : State) : (complete s).caLo = s.caLo := rfl
@[simp] theorem complete_caHi (s : State) : (complete s).caHi = s.caHi := rfl
@[simp] theorem complete_cbLo (s : State) : (complete s).cbLo = s.cbLo := rfl
@[simp] theorem complete_cbHi (s : State) : (complete s).cbHi = s.cbHi := rfl
@[simp] theorem complete_ccLo (s : State) : (complete s).ccLo = s.ccLo := rfl
@[simp] theorem complete_ccHi (s : State) : (complete s).ccHi = s.ccHi := rfl
@[simp] theorem complete_clshist (s : State) : (complete s).clshist = s.clshist := rfl
@[simp] theorem complete_kmem (s : State) : (complete s).kmem = s.kmem := rfl
@[simp] theorem complete_kact (s : State) : (complete s).kact = s.kact := rfl
@[simp] theorem complete_rem (s : State) : (complete s).rem = s.rem := rfl
@[simp] theorem complete_ibuf (s : State) : (complete s).ibuf = s.ibuf := rfl
@[simp] theorem complete_obuf (s : State) : (complete s).obuf = s.obuf := rfl
@[simp] theorem complete_spec (s : State) : (complete s).spec = s.spec := rfl
@[simp] theorem complete_acc (s : State) : (complete s).acc = s.acc := rfl
@[simp] theorem complete_env (s : State) : (complete s).env = s.env := rfl

@[simp] theorem raiseError_status (c : ErrCode) (s : State) : (raiseError c s).status = { s.status with err := true, busy := false, done := true } := rfl
@[simp] theorem raiseError_ie (c : ErrCode) (s : State) : (raiseError c s).ie = s.ie := rfl
@[simp] theorem raiseError_cmdLast (c : ErrCode) (s : State) : (raiseError c s).cmdLast = s.cmdLast := rfl
@[simp] theorem raiseError_errcode (c : ErrCode) (s : State) : (raiseError c s).errcode = c := rfl
@[simp] theorem raiseError_errcmd (c : ErrCode) (s : State) : (raiseError c s).errcmd = s.cmdLast := rfl
@[simp] theorem raiseError_klen (c : ErrCode) (s : State) : (raiseError c s).klen = s.klen := rfl
@[simp] theorem raiseError_kactlen (c : ErrCode) (s : State) : (raiseError c s).kactlen = s.kactlen := rfl
@[simp] theorem raiseError_dom (c : ErrCode) (s : State) : (raiseError c s).dom = s.dom := rfl
@[simp] theorem raiseError_blkcnt (c : ErrCode) (s : State) : (raiseError c s).blkcnt = s.blkcnt := rfl
@[simp] theorem raiseError_xin (c : ErrCode) (s : State) : (raiseError c s).xin = s.xin := rfl
@[simp] theorem raiseError_caLo (c : ErrCode) (s : State) : (raiseError c s).caLo = s.caLo := rfl
@[simp] theorem raiseError_caHi (c : ErrCode) (s : State) : (raiseError c s).caHi = s.caHi := rfl
@[simp] theorem raiseError_cbLo (c : ErrCode) (s : State) : (raiseError c s).cbLo = s.cbLo := rfl
@[simp] theorem raiseError_cbHi (c : ErrCode) (s : State) : (raiseError c s).cbHi = s.cbHi := rfl
@[simp] theorem raiseError_ccLo (c : ErrCode) (s : State) : (raiseError c s).ccLo = s.ccLo := rfl
@[simp] theorem raiseError_ccHi (c : ErrCode) (s : State) : (raiseError c s).ccHi = s.ccHi := rfl
@[simp] theorem raiseError_clshist (c : ErrCode) (s : State) : (raiseError c s).clshist = s.clshist := rfl
@[simp] theorem raiseError_kmem (c : ErrCode) (s : State) : (raiseError c s).kmem = s.kmem := rfl
@[simp] theorem raiseError_kact (c : ErrCode) (s : State) : (raiseError c s).kact = s.kact := rfl
@[simp] theorem raiseError_rem (c : ErrCode) (s : State) : (raiseError c s).rem = s.rem := rfl
@[simp] theorem raiseError_ibuf (c : ErrCode) (s : State) : (raiseError c s).ibuf = s.ibuf := rfl
@[simp] theorem raiseError_obuf (c : ErrCode) (s : State) : (raiseError c s).obuf = s.obuf := rfl
@[simp] theorem raiseError_spec (c : ErrCode) (s : State) : (raiseError c s).spec = s.spec := rfl
@[simp] theorem raiseError_acc (c : ErrCode) (s : State) : (raiseError c s).acc = s.acc := rfl
@[simp] theorem raiseError_env (c : ErrCode) (s : State) : (raiseError c s).env = s.env := rfl

@[simp] theorem writeStatus_status (v : Word) (s : State) : (writeStatus v s).status = s.status.w1c v := rfl
@[simp] theorem writeStatus_ie (v : Word) (s : State) : (writeStatus v s).ie = s.ie := rfl
@[simp] theorem writeStatus_cmdLast (v : Word) (s : State) : (writeStatus v s).cmdLast = s.cmdLast := rfl
@[simp] theorem writeStatus_errcode (v : Word) (s : State) : (writeStatus v s).errcode = s.errcode := rfl
@[simp] theorem writeStatus_errcmd (v : Word) (s : State) : (writeStatus v s).errcmd = s.errcmd := rfl
@[simp] theorem writeStatus_klen (v : Word) (s : State) : (writeStatus v s).klen = s.klen := rfl
@[simp] theorem writeStatus_kactlen (v : Word) (s : State) : (writeStatus v s).kactlen = s.kactlen := rfl
@[simp] theorem writeStatus_dom (v : Word) (s : State) : (writeStatus v s).dom = s.dom := rfl
@[simp] theorem writeStatus_blkcnt (v : Word) (s : State) : (writeStatus v s).blkcnt = s.blkcnt := rfl
@[simp] theorem writeStatus_xin (v : Word) (s : State) : (writeStatus v s).xin = s.xin := rfl
@[simp] theorem writeStatus_caLo (v : Word) (s : State) : (writeStatus v s).caLo = s.caLo := rfl
@[simp] theorem writeStatus_caHi (v : Word) (s : State) : (writeStatus v s).caHi = s.caHi := rfl
@[simp] theorem writeStatus_cbLo (v : Word) (s : State) : (writeStatus v s).cbLo = s.cbLo := rfl
@[simp] theorem writeStatus_cbHi (v : Word) (s : State) : (writeStatus v s).cbHi = s.cbHi := rfl
@[simp] theorem writeStatus_ccLo (v : Word) (s : State) : (writeStatus v s).ccLo = s.ccLo := rfl
@[simp] theorem writeStatus_ccHi (v : Word) (s : State) : (writeStatus v s).ccHi = s.ccHi := rfl
@[simp] theorem writeStatus_clshist (v : Word) (s : State) : (writeStatus v s).clshist = s.clshist := rfl
@[simp] theorem writeStatus_kmem (v : Word) (s : State) : (writeStatus v s).kmem = s.kmem := rfl
@[simp] theorem writeStatus_kact (v : Word) (s : State) : (writeStatus v s).kact = s.kact := rfl
@[simp] theorem writeStatus_rem (v : Word) (s : State) : (writeStatus v s).rem = s.rem := rfl
@[simp] theorem writeStatus_ibuf (v : Word) (s : State) : (writeStatus v s).ibuf = s.ibuf := rfl
@[simp] theorem writeStatus_obuf (v : Word) (s : State) : (writeStatus v s).obuf = s.obuf := rfl
@[simp] theorem writeStatus_spec (v : Word) (s : State) : (writeStatus v s).spec = s.spec := rfl
@[simp] theorem writeStatus_acc (v : Word) (s : State) : (writeStatus v s).acc = s.acc := rfl
@[simp] theorem writeStatus_env (v : Word) (s : State) : (writeStatus v s).env = s.env := rfl

@[simp] theorem dropWrite_status (s : State) : (dropWrite s).status = { s.status with haz := true } := rfl
@[simp] theorem dropWrite_ie (s : State) : (dropWrite s).ie = s.ie := rfl
@[simp] theorem dropWrite_cmdLast (s : State) : (dropWrite s).cmdLast = s.cmdLast := rfl
@[simp] theorem dropWrite_errcode (s : State) : (dropWrite s).errcode = s.errcode := rfl
@[simp] theorem dropWrite_errcmd (s : State) : (dropWrite s).errcmd = s.errcmd := rfl
@[simp] theorem dropWrite_klen (s : State) : (dropWrite s).klen = s.klen := rfl
@[simp] theorem dropWrite_kactlen (s : State) : (dropWrite s).kactlen = s.kactlen := rfl
@[simp] theorem dropWrite_dom (s : State) : (dropWrite s).dom = s.dom := rfl
@[simp] theorem dropWrite_blkcnt (s : State) : (dropWrite s).blkcnt = s.blkcnt := rfl
@[simp] theorem dropWrite_xin (s : State) : (dropWrite s).xin = s.xin := rfl
@[simp] theorem dropWrite_caLo (s : State) : (dropWrite s).caLo = s.caLo := rfl
@[simp] theorem dropWrite_caHi (s : State) : (dropWrite s).caHi = s.caHi := rfl
@[simp] theorem dropWrite_cbLo (s : State) : (dropWrite s).cbLo = s.cbLo := rfl
@[simp] theorem dropWrite_cbHi (s : State) : (dropWrite s).cbHi = s.cbHi := rfl
@[simp] theorem dropWrite_ccLo (s : State) : (dropWrite s).ccLo = s.ccLo := rfl
@[simp] theorem dropWrite_ccHi (s : State) : (dropWrite s).ccHi = s.ccHi := rfl
@[simp] theorem dropWrite_clshist (s : State) : (dropWrite s).clshist = s.clshist := rfl
@[simp] theorem dropWrite_kmem (s : State) : (dropWrite s).kmem = s.kmem := rfl
@[simp] theorem dropWrite_kact (s : State) : (dropWrite s).kact = s.kact := rfl
@[simp] theorem dropWrite_rem (s : State) : (dropWrite s).rem = s.rem := rfl
@[simp] theorem dropWrite_ibuf (s : State) : (dropWrite s).ibuf = s.ibuf := rfl
@[simp] theorem dropWrite_obuf (s : State) : (dropWrite s).obuf = s.obuf := rfl
@[simp] theorem dropWrite_spec (s : State) : (dropWrite s).spec = s.spec := rfl
@[simp] theorem dropWrite_acc (s : State) : (dropWrite s).acc = s.acc := rfl
@[simp] theorem dropWrite_env (s : State) : (dropWrite s).env = s.env := rfl

@[simp] theorem accept_status (w : Word) (s : State) : (accept w s).status = { s.status with busy := true, done := false } := rfl
@[simp] theorem accept_ie (w : Word) (s : State) : (accept w s).ie = s.ie := rfl
@[simp] theorem accept_cmdLast (w : Word) (s : State) : (accept w s).cmdLast = w := rfl
@[simp] theorem accept_errcode (w : Word) (s : State) : (accept w s).errcode = s.errcode := rfl
@[simp] theorem accept_errcmd (w : Word) (s : State) : (accept w s).errcmd = s.errcmd := rfl
@[simp] theorem accept_klen (w : Word) (s : State) : (accept w s).klen = s.klen := rfl
@[simp] theorem accept_kactlen (w : Word) (s : State) : (accept w s).kactlen = s.kactlen := rfl
@[simp] theorem accept_dom (w : Word) (s : State) : (accept w s).dom = s.dom := rfl
@[simp] theorem accept_blkcnt (w : Word) (s : State) : (accept w s).blkcnt = s.blkcnt := rfl
@[simp] theorem accept_xin (w : Word) (s : State) : (accept w s).xin = s.xin := rfl
@[simp] theorem accept_caLo (w : Word) (s : State) : (accept w s).caLo = s.caLo := rfl
@[simp] theorem accept_caHi (w : Word) (s : State) : (accept w s).caHi = s.caHi := rfl
@[simp] theorem accept_cbLo (w : Word) (s : State) : (accept w s).cbLo = s.cbLo := rfl
@[simp] theorem accept_cbHi (w : Word) (s : State) : (accept w s).cbHi = s.cbHi := rfl
@[simp] theorem accept_ccLo (w : Word) (s : State) : (accept w s).ccLo = s.ccLo := rfl
@[simp] theorem accept_ccHi (w : Word) (s : State) : (accept w s).ccHi = s.ccHi := rfl
@[simp] theorem accept_clshist (w : Word) (s : State) : (accept w s).clshist = s.clshist := rfl
@[simp] theorem accept_kmem (w : Word) (s : State) : (accept w s).kmem = s.kmem := rfl
@[simp] theorem accept_kact (w : Word) (s : State) : (accept w s).kact = s.kact := rfl
@[simp] theorem accept_rem (w : Word) (s : State) : (accept w s).rem = s.rem := rfl
@[simp] theorem accept_ibuf (w : Word) (s : State) : (accept w s).ibuf = s.ibuf := rfl
@[simp] theorem accept_obuf (w : Word) (s : State) : (accept w s).obuf = s.obuf := rfl
@[simp] theorem accept_spec (w : Word) (s : State) : (accept w s).spec = s.spec := rfl
@[simp] theorem accept_acc (w : Word) (s : State) : (accept w s).acc = s.acc := rfl
@[simp] theorem accept_env (w : Word) (s : State) : (accept w s).env = { s.env with engineWait := Config.cmdLatency s.env.drawNo, drawNo := s.env.drawNo + 1 } := rfl

@[simp] theorem beginStep_status (s : State) : (beginStep s).status = s.status := rfl
@[simp] theorem beginStep_ie (s : State) : (beginStep s).ie = s.ie := rfl
@[simp] theorem beginStep_cmdLast (s : State) : (beginStep s).cmdLast = s.cmdLast := rfl
@[simp] theorem beginStep_errcode (s : State) : (beginStep s).errcode = s.errcode := rfl
@[simp] theorem beginStep_errcmd (s : State) : (beginStep s).errcmd = s.errcmd := rfl
@[simp] theorem beginStep_klen (s : State) : (beginStep s).klen = s.klen := rfl
@[simp] theorem beginStep_kactlen (s : State) : (beginStep s).kactlen = s.kactlen := rfl
@[simp] theorem beginStep_dom (s : State) : (beginStep s).dom = s.dom := rfl
@[simp] theorem beginStep_blkcnt (s : State) : (beginStep s).blkcnt = s.blkcnt := rfl
@[simp] theorem beginStep_xin (s : State) : (beginStep s).xin = s.xin := rfl
@[simp] theorem beginStep_caLo (s : State) : (beginStep s).caLo = s.caLo := rfl
@[simp] theorem beginStep_caHi (s : State) : (beginStep s).caHi = s.caHi := rfl
@[simp] theorem beginStep_cbLo (s : State) : (beginStep s).cbLo = s.cbLo := rfl
@[simp] theorem beginStep_cbHi (s : State) : (beginStep s).cbHi = s.cbHi := rfl
@[simp] theorem beginStep_ccLo (s : State) : (beginStep s).ccLo = s.ccLo := rfl
@[simp] theorem beginStep_ccHi (s : State) : (beginStep s).ccHi = s.ccHi := rfl
@[simp] theorem beginStep_clshist (s : State) : (beginStep s).clshist = s.clshist := rfl
@[simp] theorem beginStep_kmem (s : State) : (beginStep s).kmem = s.kmem := rfl
@[simp] theorem beginStep_kact (s : State) : (beginStep s).kact = s.kact := rfl
@[simp] theorem beginStep_rem (s : State) : (beginStep s).rem = s.rem := rfl
@[simp] theorem beginStep_ibuf (s : State) : (beginStep s).ibuf = s.ibuf := rfl
@[simp] theorem beginStep_obuf (s : State) : (beginStep s).obuf = s.obuf := rfl
@[simp] theorem beginStep_spec (s : State) : (beginStep s).spec = s.spec := rfl
@[simp] theorem beginStep_acc (s : State) : (beginStep s).acc = s.acc := rfl
@[simp] theorem beginStep_env (s : State) : (beginStep s).env = { s.env with rstQ := s.env.rstQ.tail, busOut := none } := rfl

@[simp] theorem setHostQ_status (q : List HostOp) (s : State) : (setHostQ q s).status = s.status := rfl
@[simp] theorem setHostQ_ie (q : List HostOp) (s : State) : (setHostQ q s).ie = s.ie := rfl
@[simp] theorem setHostQ_cmdLast (q : List HostOp) (s : State) : (setHostQ q s).cmdLast = s.cmdLast := rfl
@[simp] theorem setHostQ_errcode (q : List HostOp) (s : State) : (setHostQ q s).errcode = s.errcode := rfl
@[simp] theorem setHostQ_errcmd (q : List HostOp) (s : State) : (setHostQ q s).errcmd = s.errcmd := rfl
@[simp] theorem setHostQ_klen (q : List HostOp) (s : State) : (setHostQ q s).klen = s.klen := rfl
@[simp] theorem setHostQ_kactlen (q : List HostOp) (s : State) : (setHostQ q s).kactlen = s.kactlen := rfl
@[simp] theorem setHostQ_dom (q : List HostOp) (s : State) : (setHostQ q s).dom = s.dom := rfl
@[simp] theorem setHostQ_blkcnt (q : List HostOp) (s : State) : (setHostQ q s).blkcnt = s.blkcnt := rfl
@[simp] theorem setHostQ_xin (q : List HostOp) (s : State) : (setHostQ q s).xin = s.xin := rfl
@[simp] theorem setHostQ_caLo (q : List HostOp) (s : State) : (setHostQ q s).caLo = s.caLo := rfl
@[simp] theorem setHostQ_caHi (q : List HostOp) (s : State) : (setHostQ q s).caHi = s.caHi := rfl
@[simp] theorem setHostQ_cbLo (q : List HostOp) (s : State) : (setHostQ q s).cbLo = s.cbLo := rfl
@[simp] theorem setHostQ_cbHi (q : List HostOp) (s : State) : (setHostQ q s).cbHi = s.cbHi := rfl
@[simp] theorem setHostQ_ccLo (q : List HostOp) (s : State) : (setHostQ q s).ccLo = s.ccLo := rfl
@[simp] theorem setHostQ_ccHi (q : List HostOp) (s : State) : (setHostQ q s).ccHi = s.ccHi := rfl
@[simp] theorem setHostQ_clshist (q : List HostOp) (s : State) : (setHostQ q s).clshist = s.clshist := rfl
@[simp] theorem setHostQ_kmem (q : List HostOp) (s : State) : (setHostQ q s).kmem = s.kmem := rfl
@[simp] theorem setHostQ_kact (q : List HostOp) (s : State) : (setHostQ q s).kact = s.kact := rfl
@[simp] theorem setHostQ_rem (q : List HostOp) (s : State) : (setHostQ q s).rem = s.rem := rfl
@[simp] theorem setHostQ_ibuf (q : List HostOp) (s : State) : (setHostQ q s).ibuf = s.ibuf := rfl
@[simp] theorem setHostQ_obuf (q : List HostOp) (s : State) : (setHostQ q s).obuf = s.obuf := rfl
@[simp] theorem setHostQ_spec (q : List HostOp) (s : State) : (setHostQ q s).spec = s.spec := rfl
@[simp] theorem setHostQ_acc (q : List HostOp) (s : State) : (setHostQ q s).acc = s.acc := rfl
@[simp] theorem setHostQ_env (q : List HostOp) (s : State) : (setHostQ q s).env = { s.env with hostQ := q } := rfl

@[simp] theorem assignName_status (m : HostName) (v : Int) (s : State) : (assignName m v s).status = s.status := rfl
@[simp] theorem assignName_ie (m : HostName) (v : Int) (s : State) : (assignName m v s).ie = s.ie := rfl
@[simp] theorem assignName_cmdLast (m : HostName) (v : Int) (s : State) : (assignName m v s).cmdLast = s.cmdLast := rfl
@[simp] theorem assignName_errcode (m : HostName) (v : Int) (s : State) : (assignName m v s).errcode = s.errcode := rfl
@[simp] theorem assignName_errcmd (m : HostName) (v : Int) (s : State) : (assignName m v s).errcmd = s.errcmd := rfl
@[simp] theorem assignName_klen (m : HostName) (v : Int) (s : State) : (assignName m v s).klen = s.klen := rfl
@[simp] theorem assignName_kactlen (m : HostName) (v : Int) (s : State) : (assignName m v s).kactlen = s.kactlen := rfl
@[simp] theorem assignName_dom (m : HostName) (v : Int) (s : State) : (assignName m v s).dom = s.dom := rfl
@[simp] theorem assignName_blkcnt (m : HostName) (v : Int) (s : State) : (assignName m v s).blkcnt = s.blkcnt := rfl
@[simp] theorem assignName_xin (m : HostName) (v : Int) (s : State) : (assignName m v s).xin = s.xin := rfl
@[simp] theorem assignName_caLo (m : HostName) (v : Int) (s : State) : (assignName m v s).caLo = s.caLo := rfl
@[simp] theorem assignName_caHi (m : HostName) (v : Int) (s : State) : (assignName m v s).caHi = s.caHi := rfl
@[simp] theorem assignName_cbLo (m : HostName) (v : Int) (s : State) : (assignName m v s).cbLo = s.cbLo := rfl
@[simp] theorem assignName_cbHi (m : HostName) (v : Int) (s : State) : (assignName m v s).cbHi = s.cbHi := rfl
@[simp] theorem assignName_ccLo (m : HostName) (v : Int) (s : State) : (assignName m v s).ccLo = s.ccLo := rfl
@[simp] theorem assignName_ccHi (m : HostName) (v : Int) (s : State) : (assignName m v s).ccHi = s.ccHi := rfl
@[simp] theorem assignName_clshist (m : HostName) (v : Int) (s : State) : (assignName m v s).clshist = s.clshist := rfl
@[simp] theorem assignName_kmem (m : HostName) (v : Int) (s : State) : (assignName m v s).kmem = s.kmem := rfl
@[simp] theorem assignName_kact (m : HostName) (v : Int) (s : State) : (assignName m v s).kact = s.kact := rfl
@[simp] theorem assignName_rem (m : HostName) (v : Int) (s : State) : (assignName m v s).rem = s.rem := rfl
@[simp] theorem assignName_ibuf (m : HostName) (v : Int) (s : State) : (assignName m v s).ibuf = s.ibuf := rfl
@[simp] theorem assignName_obuf (m : HostName) (v : Int) (s : State) : (assignName m v s).obuf = s.obuf := rfl
@[simp] theorem assignName_spec (m : HostName) (v : Int) (s : State) : (assignName m v s).spec = s.spec := rfl
@[simp] theorem assignName_acc (m : HostName) (v : Int) (s : State) : (assignName m v s).acc = s.acc := rfl
@[simp] theorem assignName_env (m : HostName) (v : Int) (s : State) :
    (assignName m v s).env = { s.env with names := bindName m v s.env.names } := rfl

@[simp] theorem acknowledgeWrite_status (s : State) : (acknowledgeWrite s).status = s.status := rfl
@[simp] theorem acknowledgeWrite_ie (s : State) : (acknowledgeWrite s).ie = s.ie := rfl
@[simp] theorem acknowledgeWrite_cmdLast (s : State) : (acknowledgeWrite s).cmdLast = s.cmdLast := rfl
@[simp] theorem acknowledgeWrite_errcode (s : State) : (acknowledgeWrite s).errcode = s.errcode := rfl
@[simp] theorem acknowledgeWrite_errcmd (s : State) : (acknowledgeWrite s).errcmd = s.errcmd := rfl
@[simp] theorem acknowledgeWrite_klen (s : State) : (acknowledgeWrite s).klen = s.klen := rfl
@[simp] theorem acknowledgeWrite_kactlen (s : State) : (acknowledgeWrite s).kactlen = s.kactlen := rfl
@[simp] theorem acknowledgeWrite_dom (s : State) : (acknowledgeWrite s).dom = s.dom := rfl
@[simp] theorem acknowledgeWrite_blkcnt (s : State) : (acknowledgeWrite s).blkcnt = s.blkcnt := rfl
@[simp] theorem acknowledgeWrite_xin (s : State) : (acknowledgeWrite s).xin = s.xin := rfl
@[simp] theorem acknowledgeWrite_caLo (s : State) : (acknowledgeWrite s).caLo = s.caLo := rfl
@[simp] theorem acknowledgeWrite_caHi (s : State) : (acknowledgeWrite s).caHi = s.caHi := rfl
@[simp] theorem acknowledgeWrite_cbLo (s : State) : (acknowledgeWrite s).cbLo = s.cbLo := rfl
@[simp] theorem acknowledgeWrite_cbHi (s : State) : (acknowledgeWrite s).cbHi = s.cbHi := rfl
@[simp] theorem acknowledgeWrite_ccLo (s : State) : (acknowledgeWrite s).ccLo = s.ccLo := rfl
@[simp] theorem acknowledgeWrite_ccHi (s : State) : (acknowledgeWrite s).ccHi = s.ccHi := rfl
@[simp] theorem acknowledgeWrite_clshist (s : State) : (acknowledgeWrite s).clshist = s.clshist := rfl
@[simp] theorem acknowledgeWrite_kmem (s : State) : (acknowledgeWrite s).kmem = s.kmem := rfl
@[simp] theorem acknowledgeWrite_kact (s : State) : (acknowledgeWrite s).kact = s.kact := rfl
@[simp] theorem acknowledgeWrite_rem (s : State) : (acknowledgeWrite s).rem = s.rem := rfl
@[simp] theorem acknowledgeWrite_ibuf (s : State) : (acknowledgeWrite s).ibuf = s.ibuf := rfl
@[simp] theorem acknowledgeWrite_obuf (s : State) : (acknowledgeWrite s).obuf = s.obuf := rfl
@[simp] theorem acknowledgeWrite_spec (s : State) : (acknowledgeWrite s).spec = s.spec := rfl
@[simp] theorem acknowledgeWrite_acc (s : State) : (acknowledgeWrite s).acc = s.acc := rfl
@[simp] theorem acknowledgeWrite_env (s : State) : (acknowledgeWrite s).env = { s.env with busOut := some .written } := rfl

@[simp] theorem countDown_status (n : Nat) (s : State) : (countDown n s).status = s.status := rfl
@[simp] theorem countDown_ie (n : Nat) (s : State) : (countDown n s).ie = s.ie := rfl
@[simp] theorem countDown_cmdLast (n : Nat) (s : State) : (countDown n s).cmdLast = s.cmdLast := rfl
@[simp] theorem countDown_errcode (n : Nat) (s : State) : (countDown n s).errcode = s.errcode := rfl
@[simp] theorem countDown_errcmd (n : Nat) (s : State) : (countDown n s).errcmd = s.errcmd := rfl
@[simp] theorem countDown_klen (n : Nat) (s : State) : (countDown n s).klen = s.klen := rfl
@[simp] theorem countDown_kactlen (n : Nat) (s : State) : (countDown n s).kactlen = s.kactlen := rfl
@[simp] theorem countDown_dom (n : Nat) (s : State) : (countDown n s).dom = s.dom := rfl
@[simp] theorem countDown_blkcnt (n : Nat) (s : State) : (countDown n s).blkcnt = s.blkcnt := rfl
@[simp] theorem countDown_xin (n : Nat) (s : State) : (countDown n s).xin = s.xin := rfl
@[simp] theorem countDown_caLo (n : Nat) (s : State) : (countDown n s).caLo = s.caLo := rfl
@[simp] theorem countDown_caHi (n : Nat) (s : State) : (countDown n s).caHi = s.caHi := rfl
@[simp] theorem countDown_cbLo (n : Nat) (s : State) : (countDown n s).cbLo = s.cbLo := rfl
@[simp] theorem countDown_cbHi (n : Nat) (s : State) : (countDown n s).cbHi = s.cbHi := rfl
@[simp] theorem countDown_ccLo (n : Nat) (s : State) : (countDown n s).ccLo = s.ccLo := rfl
@[simp] theorem countDown_ccHi (n : Nat) (s : State) : (countDown n s).ccHi = s.ccHi := rfl
@[simp] theorem countDown_clshist (n : Nat) (s : State) : (countDown n s).clshist = s.clshist := rfl
@[simp] theorem countDown_kmem (n : Nat) (s : State) : (countDown n s).kmem = s.kmem := rfl
@[simp] theorem countDown_kact (n : Nat) (s : State) : (countDown n s).kact = s.kact := rfl
@[simp] theorem countDown_rem (n : Nat) (s : State) : (countDown n s).rem = s.rem := rfl
@[simp] theorem countDown_ibuf (n : Nat) (s : State) : (countDown n s).ibuf = s.ibuf := rfl
@[simp] theorem countDown_obuf (n : Nat) (s : State) : (countDown n s).obuf = s.obuf := rfl
@[simp] theorem countDown_spec (n : Nat) (s : State) : (countDown n s).spec = s.spec := rfl
@[simp] theorem countDown_acc (n : Nat) (s : State) : (countDown n s).acc = s.acc := rfl
@[simp] theorem countDown_env (n : Nat) (s : State) : (countDown n s).env = { s.env with engineWait := n } := rfl

/-- A reset gives every field for which the spec names a reset value that value (R50, R243). -/
@[simp] theorem resetBlock_status (s : State) : (resetBlock s).status = Status.reset := rfl
@[simp] theorem resetBlock_ie (s : State) : (resetBlock s).ie = IntEnable.reset := rfl
@[simp] theorem resetBlock_errcode (s : State) : (resetBlock s).errcode = .none := rfl
@[simp] theorem resetBlock_env (s : State) :
    (resetBlock s).env = { s.env with engineWait := 0, drawNo := s.env.drawNo + 1 } := rfl

end Sys2Proof.Machine
end

