-- ==== Sys2Proof/Laws/Bus.lean ====
section
/-! SUPPORT. Which location an offset reaches (R61 to R63), said once in both directions, and what a bus
transaction can do to the state. -/

namespace Sys2Proof.Machine

/-- Ignoring bits 1:0 rounds the offset down to a multiple of 4 (R62). -/
theorem toNat_effectiveOffset (off : Half) : (effectiveOffset off).toNat = off.toNat / 4 * 4 := by
  have h : effectiveOffset off = (off >>> 2) <<< 2 := by
    apply BitVec.eq_of_getLsbD_eq
    intro i hi
    simp only [effectiveOffset, BitVec.getLsbD_and, BitVec.getLsbD_shiftLeft, BitVec.getLsbD_ushiftRight]
    interval_cases i <;> simp
  rw [h]
  have := off.isLt
  simp only [BitVec.toNat_shiftLeft, BitVec.toNat_ushiftRight, Nat.shiftLeft_eq, Nat.shiftRight_eq_div_pow]
  omega

theorem locOf_eq (off : Half) : locOf off = locOfWord (off.toNat / 4) := by
  rw [locOf, toNat_effectiveOffset]; congr 1; omega

/-- The word index of a location: its offset divided by 4 (R61). -/
def Loc.At (l : Loc) (a : Nat) : Prop :=
  match l with
  | .reg r => regMap[a]? = some r
  | .kmem i => a = 0x400 + i.val
  | .rem j high => a = 0x800 + 2 * j.val + high.toNat
  | .ibuf i => a = 0x1000 + i.val
  | .obuf i => a = 0x1400 + i.val
  | .spec k => a = 0x1800 + k.val
  | .acc k high => a = 0x2000 + 2 * k.val + high.toNat
  | .unmapped => (0x16 ≤ a ∧ a < 0x400) ∨ (0x7FF ≤ a ∧ a < 0x800) ∨ (0xFFC ≤ a ∧ a < 0x1000) ∨
      (0x11B9 ≤ a ∧ a < 0x1400) ∨ (0x15B9 ≤ a ∧ a < 0x1800) ∨ (0x18DC ≤ a ∧ a < 0x2000) ∨ 0x21B8 ≤ a

theorem regMap_lt {a : Nat} {r : Reg} (h : regMap[a]? = some r) : a < 0x16 := by
  have := (List.getElem?_eq_some_iff.mp h).1
  simpa [regMap] using this

theorem toNat_odd (a : Nat) : (a % 2 == 1).toNat = a % 2 := by
  rcases Nat.mod_two_eq_zero_or_one a with h | h <;> simp [h]

/-- The sizes of the memories as numbers. -/
theorem sizes : Config.kmax = 1023 ∧ Config.rmax = 1022 ∧ Config.blockN = 441 ∧ Config.nbins = 220 :=
  ⟨rfl, rfl, rfl, rfl⟩

theorem regionIndex_some {base n a : Nat} {i : Fin n} (h : regionIndex base n a = some i) : a = base + i.val := by
  unfold regionIndex at h
  split at h
  · next h1 => cases h; exact (Nat.add_sub_cancel' h1.1).symm
  · cases h

theorem regionIndex_none {base n a : Nat} (h : regionIndex base n a = none) : a < base ∨ base + n ≤ a := by
  unfold regionIndex at h
  split at h
  · cases h
  · next h1 => omega

/-- Every word index reaches a location that stands at that index (R61). -/
theorem locOfWord_at (a : Nat) : (locOfWord a).At a := by
  rw [locOfWord]
  cases h0 : regMap[a]? with
  | some r => exact h0
  | none =>
  cases h1 : regionIndex 0x400 Config.kmax a with
  | some i => exact regionIndex_some h1
  | none =>
  cases h2 : regionIndex 0x800 (2 * Config.rmax) a with
  | some i =>
    have := regionIndex_some h2
    show a = 0x800 + 2 * (i.val / 2) + (i.val % 2 == 1).toNat
    rw [toNat_odd]; omega
  | none =>
  cases h3 : regionIndex 0x1000 Config.blockN a with
  | some i => exact regionIndex_some h3
  | none =>
  cases h4 : regionIndex 0x1400 Config.blockN a with
  | some i => exact regionIndex_some h4
  | none =>
  cases h5 : regionIndex 0x1800 Config.nbins a with
  | some i => exact regionIndex_some h5
  | none =>
  cases h6 : regionIndex 0x2000 (2 * Config.nbins) a with
  | some i =>
    have := regionIndex_some h6
    show a = 0x2000 + 2 * (i.val / 2) + (i.val % 2 == 1).toNat
    rw [toNat_odd]; omega
  | none =>
    have k0 : 0x16 ≤ a := List.getElem?_eq_none_iff.mp h0
    have k1 := regionIndex_none h1
    have k2 := regionIndex_none h2
    have k3 := regionIndex_none h3
    have k4 := regionIndex_none h4
    have k5 := regionIndex_none h5
    have k6 := regionIndex_none h6
    obtain ⟨hk, hr, hn, hb⟩ := sizes
    show (0x16 ≤ a ∧ a < 0x400) ∨ (0x7FF ≤ a ∧ a < 0x800) ∨ (0xFFC ≤ a ∧ a < 0x1000) ∨
      (0x11B9 ≤ a ∧ a < 0x1400) ∨ (0x15B9 ≤ a ∧ a < 0x1800) ∨ (0x18DC ≤ a ∧ a < 0x2000) ∨ 0x21B8 ≤ a
    omega

theorem bool_eq_of_toNat {b c : Bool} (h : b.toNat = c.toNat) : b = c := by
  cases b <;> cases c <;> simp_all

/-- A word index reaches one location only. -/
theorem Loc.at_unique {l m : Loc} {a : Nat} (h1 : l.At a) (h2 : m.At a) : l = m := by
  have hb (b : Bool) : b.toNat ≤ 1 := Bool.toNat_le b
  obtain ⟨hk, hr, hn, hs⟩ := sizes
  cases l with
  | reg r =>
    have hr' := regMap_lt h1
    cases m with
    | reg r' => simp only [Loc.At] at h1 h2; rw [h1] at h2; cases h2; rfl
    | _ => simp only [Loc.At] at h2; omega
  | kmem i =>
    cases m with
    | reg r' => have := regMap_lt h2; simp only [Loc.At] at h1; omega
    | kmem i' => simp only [Loc.At] at h1 h2; congr 1; apply Fin.ext; omega
    | rem j b => have := hb b; simp only [Loc.At] at h1 h2; omega
    | acc k b => have := hb b; simp only [Loc.At] at h1 h2; omega
    | _ => simp only [Loc.At] at h1 h2; omega
  | rem j b =>
    have := hb b
    cases m with
    | reg r' => have := regMap_lt h2; simp only [Loc.At] at h1; omega
    | rem j' b' =>
      have := hb b'
      simp only [Loc.At] at h1 h2
      obtain rfl : j = j' := Fin.ext (by omega)
      obtain rfl : b = b' := bool_eq_of_toNat (by omega)
      rfl
    | _ => simp only [Loc.At] at h1 h2; omega
  | ibuf i =>
    cases m with
    | reg r' => have := regMap_lt h2; simp only [Loc.At] at h1; omega
    | ibuf i' => simp only [Loc.At] at h1 h2; congr 1; apply Fin.ext; omega
    | rem j b => have := hb b; simp only [Loc.At] at h1 h2; omega
    | _ => simp only [Loc.At] at h1 h2; omega
  | obuf i =>
    cases m with
    | reg r' => have := regMap_lt h2; simp only [Loc.At] at h1; omega
    | obuf i' => simp only [Loc.At] at h1 h2; congr 1; apply Fin.ext; omega
    | rem j b => have := hb b; simp only [Loc.At] at h1 h2; omega
    | _ => simp only [Loc.At] at h1 h2; omega
  | spec i =>
    cases m with
    | reg r' => have := regMap_lt h2; simp only [Loc.At] at h1; omega
    | spec i' => simp only [Loc.At] at h1 h2; congr 1; apply Fin.ext; omega
    | rem j b => have := hb b; simp only [Loc.At] at h1 h2; omega
    | _ => simp only [Loc.At] at h1 h2; omega
  | acc k b =>
    have := hb b
    cases m with
    | reg r' => have := regMap_lt h2; simp only [Loc.At] at h1; omega
    | acc k' b' =>
      have := hb b'
      simp only [Loc.At] at h1 h2
      obtain rfl : k = k' := Fin.ext (by omega)
      obtain rfl : b = b' := bool_eq_of_toNat (by omega)
      rfl
    | rem j b' => have := hb b'; simp only [Loc.At] at h1 h2; omega
    | _ => simp only [Loc.At] at h1 h2; omega
  | unmapped =>
    cases m with
    | reg r' => have := regMap_lt h2; simp only [Loc.At] at h1; omega
    | unmapped => rfl
    | rem j b => have := hb b; simp only [Loc.At] at h1 h2; omega
    | acc k b => have := hb b; simp only [Loc.At] at h1 h2; omega
    | _ => simp only [Loc.At] at h1 h2; omega

/-- The location of an offset, in both directions. -/
theorem locOf_iff (off : Half) (l : Loc) : locOf off = l ↔ l.At (off.toNat / 4) := by
  rw [locOf_eq]
  exact ⟨fun h => h ▸ locOfWord_at _, fun h => Loc.at_unique (locOfWord_at _) h⟩

/-- The location an offset given as a number reaches. -/
theorem locOf_ofNat {n : Nat} {l : Loc} (hn : n < 2 ^ 16) (h : l.At (n / 4)) : locOf (BitVec.ofNat 16 n) = l := by
  rw [locOf_iff, BitVec.toNat_ofNat, Nat.mod_eq_of_lt hn]; exact h

/-- A read returns the data on the bus, and the block's state is as before (R66). -/
theorem performRead_eq (off : Half) (s : State) : performRead off s = { s with env := (performRead off s).env } := by
  unfold performRead; split <;> rfl

/-- With a command in flight that fails no check, the write set is that of R49; otherwise there is none. -/
theorem inFlightEntry_iff (s : State) (l : Loc) : inFlightEntry s l = true ↔
    s.status.busy = true ∧ ∃ i, decode s.cmdLast = .ok i ∧ failedCheck i s = none ∧ writesEntry i s l = true := by
  unfold inFlightEntry
  cases decode s.cmdLast <;> simp

/-- A read of anything but an entry the command in flight writes returns the current value (R251). -/
theorem performRead_current {off : Half} {s : State} (h : inFlightEntry s (locOf off) = false) :
    performRead off s = { s with env := { s.env with busOut := some (.read (readLoc s (locOf off))) } } := by
  rw [performRead, h]; rfl

theorem inFlightEntry_of_not_busy {s : State} (h : s.status.busy = false) (l : Loc) : inFlightEntry s l = false := by
  simp [inFlightEntry, h]

@[simp] theorem inFlightEntry_reg (s : State) (r : Reg) : inFlightEntry s (.reg r) = false := by
  unfold inFlightEntry
  split
  · next i _ => cases i <;> simp [writesEntry]
  · simp

@[simp] theorem inFlightEntry_unmapped (s : State) : inFlightEntry s .unmapped = false := by
  unfold inFlightEntry
  split
  · next i _ => cases i <;> simp [writesEntry]
  · simp

/-- The register at an aligned offset (R61). -/
theorem locOf_reg {off : Half} {n : Nat} {r : Reg} (h : off.toNat / 4 * 4 = n) (hr : regMap[n / 4]? = some r) :
    locOf off = .reg r := by
  rw [locOf_iff, show off.toNat / 4 = n / 4 by omega]; exact hr

/-- A register read returns the register, whatever is in flight (R66, R251). -/
theorem performRead_reg {off : Half} {n : Nat} {r : Reg} (s : State) (h : off.toNat / 4 * 4 = n)
    (hr : regMap[n / 4]? = some r) :
    performRead off s = { s with env := { s.env with busOut := some (.read (readReg s r)) } } := by
  have hl := locOf_reg h hr
  rw [performRead_current (by rw [hl]; exact inFlightEntry_reg s r), hl]; rfl

theorem whenNotBusy_idle {s t : State} (h : s.status.busy = false) : whenNotBusy s t = t := by
  simp [whenNotBusy, h]

theorem whenNotBusy_busy {s t : State} (h : s.status.busy = true) : whenNotBusy s t = dropWrite s := by
  simp [whenNotBusy, h]

/-- Everything a host write can do (R22 to R46, R64, R67, R250). -/
inductive HostWrite : Loc → Word → State → State → Prop
  | reset (v s) (h : v.getLsbD 0 = true) : HostWrite (.reg .ctrl) v s (resetBlock s)
  | status (v s) : HostWrite (.reg .status) v s (writeStatus v s)
  | enable (v s) : HostWrite (.reg .ie) v s { s with ie := IntEnable.ofWord v }
  | accept (v s) (h : s.status.busy = false ∧ s.status.err = false) : HostWrite (.reg .cmd) v s (accept v s)
  | drop (l v s) (h : s.status.busy = true ∨ s.status.err = true) : HostWrite l v s (dropWrite s)
  | ignore (l v s) : HostWrite l v s s
  | store (r v s) (h : s.status.busy = false) (klen xin caLo caHi cbLo cbHi ccLo ccHi clshist) :
    HostWrite (.reg r) v s
      { s with
        klen := klen, xin := xin, caLo := caLo, caHi := caHi, cbLo := cbLo, cbHi := cbHi, ccLo := ccLo
        ccHi := ccHi, clshist := clshist }
  | kmem (i v s) (h : s.status.busy = false) :
    HostWrite (.kmem i) v s { s with kmem := s.kmem.set i.val v i.isLt }
  | rem (j high v s) (h : s.status.busy = false) :
    HostWrite (.rem j high) v s { s with rem := s.rem.set j.val (setWord s.rem[j] high v) j.isLt }
  | ibuf (i v s) (h : s.status.busy = false) :
    HostWrite (.ibuf i) v s { s with ibuf := s.ibuf.set i.val (v.extractLsb' 0 16) i.isLt }

theorem whenNotBusy_write {l : Loc} {v : Word} {s t : State} (h : s.status.busy = false → HostWrite l v s t) :
    HostWrite l v s (whenNotBusy s t) := by
  cases hb : s.status.busy with
  | true => rw [whenNotBusy_busy hb]; exact .drop l v s (.inl hb)
  | false => rw [whenNotBusy_idle hb]; exact h hb

theorem writeLoc_cases (l : Loc) (v : Word) (s : State) : HostWrite l v s (writeLoc l v s) := by
  cases l with
  | kmem i => exact whenNotBusy_write (.kmem i v s)
  | rem j high => exact whenNotBusy_write (.rem j high v s)
  | ibuf i => exact whenNotBusy_write (.ibuf i v s)
  | obuf i => exact .ignore _ v s
  | spec k => exact .ignore _ v s
  | acc k high => exact .ignore _ v s
  | unmapped => exact .ignore _ v s
  | reg r =>
    cases r with
    | ctrl =>
      show HostWrite _ v s (if v.getLsbD 0 then resetBlock s else s)
      split
      · next h => exact .reset v s h
      · exact .ignore _ v s
    | status => exact .status v s
    | ie => exact .enable v s
    | cmd =>
      show HostWrite _ v s (if s.status.busy = false ∧ s.status.err = false then Machine.accept v s else dropWrite s)
      split
      · next h => exact .accept v s h
      · next h => exact .drop _ v s (by cases hb : s.status.busy <;> simp_all)
    | klen => exact whenNotBusy_write fun h => .store _ v s h _ _ _ _ _ _ _ _ _
    | xin => exact whenNotBusy_write fun h => .store _ v s h _ _ _ _ _ _ _ _ _
    | caLo => exact whenNotBusy_write fun h => .store _ v s h _ _ _ _ _ _ _ _ _
    | caHi => exact whenNotBusy_write fun h => .store _ v s h _ _ _ _ _ _ _ _ _
    | cbLo => exact whenNotBusy_write fun h => .store _ v s h _ _ _ _ _ _ _ _ _
    | cbHi => exact whenNotBusy_write fun h => .store _ v s h _ _ _ _ _ _ _ _ _
    | ccLo => exact whenNotBusy_write fun h => .store _ v s h _ _ _ _ _ _ _ _ _
    | ccHi => exact whenNotBusy_write fun h => .store _ v s h _ _ _ _ _ _ _ _ _
    | clshist => exact whenNotBusy_write fun h => .store _ v s h _ _ _ _ _ _ _ _ _
    | _ => exact .ignore _ v s

/-- A read leaves the schedule and the host's operations and names as they were. -/
theorem performRead_env (off : Half) (s : State) :
    (performRead off s).env.engineWait = s.env.engineWait ∧ (performRead off s).env.rstQ = s.env.rstQ ∧
    (performRead off s).env.hostQ = s.env.hostQ ∧ (performRead off s).env.names = s.env.names := by
  unfold performRead; split <;> exact ⟨rfl, rfl, rfl, rfl⟩

/-- A read puts a word on the bus. -/
theorem performRead_busOut (off : Half) (s : State) : ∃ w, (performRead off s).env.busOut = some (.read w) := by
  unfold performRead; split <;> exact ⟨_, rfl⟩

end Sys2Proof.Machine
end

