-- ==== Sys2Proof/Laws/Classifier.lean ====
section
/-! SUPPORT. What CLS does when its checks pass (R182), and the bits of the history. -/

namespace Sys2Proof.Machine

/-- The newest decision is bit 0 of the history (R182). -/
theorem getLsbD_shiftedHistory_zero (h : Word) (r : Bool) : (shiftedHistory h r).getLsbD 0 = r := by
  unfold shiftedHistory
  rw [BitVec.getLsbD_ofNat, Nat.testBit_zero]
  cases r <;> simp

/-- The other decisions move up by one bit (R182). -/
theorem getLsbD_shiftedHistory_succ (h : Word) (r : Bool) (n : Nat) (hn : n < 31) :
    (shiftedHistory h r).getLsbD (n + 1) = h.getLsbD n := by
  have hr := Bool.toNat_le r
  unfold shiftedHistory
  rw [BitVec.getLsbD_ofNat, Nat.testBit_succ, show (h.toNat * 2 + r.toNat) / 2 = h.toNat by omega,
    decide_eq_true (by omega), Bool.true_and]
  rfl

/-- CLS on XIN always decides (R182, R204). -/
theorem execCls_xin (s : State) : execCls .xin s = .next (classify s.xin s) := rfl

/-- CLS on SPEC[DOM] decides once a dominant bin and a spectrum are there (R182). -/
theorem execCls_spec {s : State} (h1 : s.status.domv = true) (h2 : s.status.specv = true) :
    execCls .spec s = .next (classify s.spec[s.dom] s) := by
  simp only [execCls]
  rw [if_neg (by simp [h1]), if_neg (by simp [h2])]

end Sys2Proof.Machine
end

