-- ==== Sys2Proof/Laws/Decode.lean ====
section
/-! SUPPORT. The fields of a command word (R91) and what the decoder reads from them (R94). -/

namespace Sys2Proof

theorem opField_word (op rsv : BitVec 8) (imm : Half) : opField (op ++ rsv ++ imm) = op := by
  apply BitVec.eq_of_getLsbD_eq
  intro i hi
  simp only [opField, BitVec.getLsbD_extractLsb', BitVec.getLsbD_append, hi, decide_true, Bool.true_and]
  rw [if_neg (by omega), if_neg (by omega)]
  congr 1; omega

theorem rsvField_word (op rsv : BitVec 8) (imm : Half) : rsvField (op ++ rsv ++ imm) = rsv := by
  apply BitVec.eq_of_getLsbD_eq
  intro i hi
  simp only [rsvField, BitVec.getLsbD_extractLsb', BitVec.getLsbD_append, hi, decide_true, Bool.true_and]
  rw [if_neg (by omega), if_pos (by omega)]
  congr 1; omega

theorem immField_word (op rsv : BitVec 8) (imm : Half) : immField (op ++ rsv ++ imm) = imm := by
  apply BitVec.eq_of_getLsbD_eq
  intro i hi
  simp only [immField, BitVec.getLsbD_extractLsb', BitVec.getLsbD_append, hi, decide_true, Bool.true_and]
  rw [if_pos (by omega)]
  congr 1; omega

/-- A word is its three fields (R91). -/
theorem word_of_fields (w : Word) : opField w ++ rsvField w ++ immField w = w := by
  apply BitVec.eq_of_getLsbD_eq
  intro i hi
  simp only [opField, rsvField, immField, BitVec.getLsbD_append, BitVec.getLsbD_extractLsb']
  split
  · next h => simp [h]
  · next h =>
    split
    · next h2 => simp [h2, show 16 + (i - 16) = i by omega]
    · next h2 => simp [show i - 16 - 8 < 8 by omega, show 24 + (i - 16 - 8) = i by omega]

theorem toNat_opField (w : Word) : (opField w).toNat = w.toNat / 2 ^ 24 := by
  have := w.isLt
  simp only [opField, BitVec.extractLsb'_toNat, Nat.shiftRight_eq_div_pow]
  omega

theorem toNat_rsvField (w : Word) : (rsvField w).toNat = w.toNat / 2 ^ 16 % 256 := by
  simp only [rsvField, BitVec.extractLsb'_toNat, Nat.shiftRight_eq_div_pow]

theorem toNat_immField (w : Word) : (immField w).toNat = w.toNat % 2 ^ 16 := by
  simp only [immField, BitVec.extractLsb'_toNat, Nat.shiftRight_zero]

/-- The CLS operand: all bits but bit 0 are clear exactly for the two legal operands (R92). -/
theorem cls_imm_cases (imm : Half) (h : imm.extractLsb' 1 15 = 0#15) : imm = 0#16 ∨ imm = 1#16 := by
  have h1 : (imm.extractLsb' 1 15).toNat = 0 := by rw [h]; rfl
  simp only [BitVec.extractLsb'_toNat, Nat.shiftRight_eq_div_pow] at h1
  have := imm.isLt
  have h2 : imm.toNat = 0 ∨ imm.toNat = 1 := by omega
  rcases h2 with h2 | h2
  · exact .inl (BitVec.eq_of_toNat_eq h2)
  · exact .inr (BitVec.eq_of_toNat_eq h2)

/-- What the decoder answers, case by case (R94). -/
theorem decode_cases (w : Word) (i : Instr) (h : decode w = .ok i) :
    rsvField w = 0#8 ∧ opField w = i.op ∧ immField w = i.imm ∧ i.wellFormed = true := by
  unfold decode at h
  split at h
  · cases h
  · next hr =>
    have hr : rsvField w = 0#8 := by simpa using hr
    have op_eq (n : BitVec 8) (hn : (opField w).toNat = n.toNat) : opField w = n := BitVec.eq_of_toNat_eq hn
    have plain (j : Instr) (hj : decodePlain j (immField w) = .ok i) : immField w = 0#16 ∧ j = i := by
      unfold decodePlain at hj
      split at hj
      · next h0 => exact ⟨h0, by simpa using hj⟩
      · cases hj
    split at h
    case h_9 hop =>
      cases h
      exact ⟨hr, op_eq _ hop, by simp [Instr.imm], by simpa [Instr.wellFormed] using (immField w).isLt⟩
    case h_10 hop =>
      unfold decodeCls at h
      split at h
      · next h0 =>
        rcases cls_imm_cases _ h0 with h1 | h1
        · rw [h1] at h; cases h; exact ⟨hr, op_eq _ hop, h1, rfl⟩
        · rw [h1] at h; cases h; exact ⟨hr, op_eq _ hop, h1, rfl⟩
      · cases h
    case h_11 => cases h
    all_goals
      next hop =>
        obtain ⟨h0, rfl⟩ := plain _ h
        exact ⟨hr, op_eq _ hop, h0, rfl⟩

/-- Two words with the same three fields are equal, so a decoded word is the word of its fields. -/
theorem word_eq_of_fields {w : Word} {op rsv : BitVec 8} {imm : Half} (h1 : opField w = op)
    (h2 : rsvField w = rsv) (h3 : immField w = imm) : op ++ rsv ++ imm = w := by
  rw [← h1, ← h2, ← h3, word_of_fields]

end Sys2Proof
end

