-- ==== Sys2Proof/Laws/Exec.lean ====
section
/-! SUPPORT. What the engine step of a command can do, said once for all commands. -/

namespace Sys2Proof.Machine

/-- The state a command's successful part leaves before `complete`: which fields it may write (R49). -/
inductive Effect : Instr → State → State → Prop
  | nop (s) : Effect .nop s s
  | kcommit (s) (h : ¬ BadLength s.klen.toNat) : Effect .kcommit s
      { s with
        kact := committedKernel s.klen.toNat s
        kactlen := ⟨s.klen.toNat, lt_of_not_badLength h⟩
        rem := clearedRem
        status := { s.status with kvalid := true } }
  | rclr (s) : Effect .rclr s { s with rem := clearedRem }
  | filt (s) (h : s.status.kvalid = true) : Effect .filt s
      { s with
        obuf := filteredBlock s
        rem := newRemainder s
        status := { s.status with obufv := true, sat := s.status.sat || s.anySaturates } }
  | spec (s) (h : s.status.obufv = true) : Effect .spec s
      { s with
        spec := tabulate Config.nbins fun k => BitVec.ofNat 32 (magBin s.filtered k)
        status := { s.status with specv := true } }
  | accum (s) (h : s.status.specv = true) : Effect .accum s
      { s with
        acc := tabulate Config.nbins fun k => BitVec.ofNat 64 (satu (s.newBinSum k) 64)
        blkcnt := if s.blkcnt = 0xFFFFFFFF#32 then s.blkcnt else s.blkcnt + 1#32
        status := { s.status with asat := s.status.asat || s.accumSaturates } }
  | aclr (s) : Effect .aclr s { s with acc := Vector.replicate Config.nbins 0#64, blkcnt := 0#32 }
  | domsel (s) (h : s.blkcnt ≠ 0#32) : Effect .domsel s
      { s with dom := s.dominantBin, status := { s.status with domv := true } }
  | domset (s) (bin : Nat) (h : bin < Config.nbins) : Effect (.domset bin) s
      { s with dom := ⟨bin, h⟩, status := { s.status with domv := true } }
  | cls (s) (src : ClsSrc) (x : Word) (hx : src = .xin ∧ x = s.xin ∨
      src = .spec ∧ s.status.domv = true ∧ s.status.specv = true ∧ x = s.spec[s.dom]) : Effect (.cls src) s
      { s with
        clshist := shiftedHistory s.clshist (s.decides x.toNat)
        status := { s.status with clsres := s.decides x.toNat } }

/-- A command whose own checks pass has its effect and completes; otherwise it raises the error of the first that
fails (R112, R204). -/
theorem exec_failedCheck (i : Instr) (s : State) :
    (∀ c, failedCheck i s = some c → exec i s = .next (raiseError c s)) ∧
    (failedCheck i s = none → ∃ u, Effect i s u ∧ exec i s = .next (complete u)) := by
  cases i with
  | nop => exact ⟨nofun, fun _ => ⟨_, .nop s, rfl⟩⟩
  | kcommit =>
    by_cases h : BadLength s.klen.toNat
    · exact ⟨fun c hc => by simp_all [failedCheck, exec, execKcommit], fun hc => by simp [failedCheck, h] at hc⟩
    · exact ⟨fun c hc => by simp [failedCheck, h] at hc,
        fun _ => ⟨_, .kcommit s h, by simp only [exec, execKcommit, dif_neg h]⟩⟩
  | rclr => exact ⟨nofun, fun _ => ⟨_, .rclr s, rfl⟩⟩
  | filt =>
    cases h : s.status.kvalid with
    | false => simp [failedCheck, exec, execFilt, h]
    | true => exact ⟨fun c hc => by simp [failedCheck, h] at hc, fun _ => ⟨_, .filt s h, by simp [exec, execFilt, h]⟩⟩
  | spec =>
    cases h : s.status.obufv with
    | false => simp [failedCheck, exec, execSpec, h]
    | true => exact ⟨fun c hc => by simp [failedCheck, h] at hc, fun _ => ⟨_, .spec s h, by simp [exec, execSpec, h]⟩⟩
  | accum =>
    cases h : s.status.specv with
    | false => simp [failedCheck, exec, execAccum, h]
    | true =>
      exact ⟨fun c hc => by simp [failedCheck, h] at hc, fun _ => ⟨_, .accum s h, by simp [exec, execAccum, h]⟩⟩
  | aclr => exact ⟨nofun, fun _ => ⟨_, .aclr s, rfl⟩⟩
  | domsel =>
    by_cases h : s.blkcnt = 0#32
    · simp [failedCheck, exec, execDomsel, h]
    · exact ⟨fun c hc => by simp [failedCheck, h] at hc, fun _ => ⟨_, .domsel s h, by simp [exec, execDomsel, h]⟩⟩
  | domset bin =>
    by_cases h : bin < Config.nbins
    · exact ⟨fun c hc => by simp [failedCheck, h] at hc,
        fun _ => ⟨_, .domset s bin h, by simp only [exec, execDomset, dif_pos h]⟩⟩
    · exact ⟨fun c hc => by simp_all [failedCheck, exec, execDomset], fun hc => by simp [failedCheck, h] at hc⟩
  | cls src =>
    cases src with
    | xin => exact ⟨nofun, fun _ => ⟨_, .cls s .xin s.xin (.inl ⟨rfl, rfl⟩), rfl⟩⟩
    | spec =>
      cases h : s.status.domv with
      | false => simp [failedCheck, exec, execCls, h]
      | true =>
        cases h2 : s.status.specv with
        | false => simp [failedCheck, exec, execCls, h, h2]
        | true =>
          exact ⟨fun c hc => by simp [failedCheck, h, h2] at hc,
            fun _ => ⟨_, .cls s .spec s.spec[s.dom] (.inr ⟨rfl, h, h2, rfl⟩), by
              simp [exec, execCls, h, h2, classify]⟩⟩

/-- A failed check raises one of the errors of R201 that CWFE-1 raises. -/
theorem failedCheck_code {i : Instr} {s : State} {c : ErrCode} (h : failedCheck i s = some c) :
    c ≠ .none ∧ c ≠ .numeric := by
  cases i <;> simp only [failedCheck] at h <;> (try split at h) <;> (try split at h) <;> (try split at h) <;>
    cases h <;> decide

/-- A command raises one of the errors of R201 or has its effect and completes (R112, R114, R202). -/
theorem exec_cases (i : Instr) (s : State) :
    (∃ c, c ≠ .none ∧ c ≠ .numeric ∧ exec i s = .next (raiseError c s)) ∨
    (∃ u, Effect i s u ∧ exec i s = .next (complete u)) := by
  cases h : failedCheck i s with
  | some c => exact .inl ⟨c, (failedCheck_code h).1, (failedCheck_code h).2, (exec_failedCheck i s).1 c h⟩
  | none => exact .inr ((exec_failedCheck i s).2 h)

/-- A command always leads to a next state. -/
theorem exec_next (i : Instr) (s : State) : ∃ t, exec i s = .next t := by
  rcases exec_cases i s with ⟨c, -, -, h⟩ | ⟨u, -, h⟩ <;> exact ⟨_, h⟩

/-- The two outcomes of a command, from the state it left. -/
theorem exec_inv {i : Instr} {s t : State} (h : exec i s = .next t) :
    (∃ c, c ≠ .none ∧ c ≠ .numeric ∧ t = raiseError c s) ∨ (∃ u, Effect i s u ∧ t = complete u) := by
  rcases exec_cases i s with ⟨c, h1, h2, h3⟩ | ⟨u, h1, h2⟩
  · rw [h3] at h; cases h; exact .inl ⟨c, h1, h2, rfl⟩
  · rw [h2] at h; cases h; exact .inr ⟨u, h1, rfl⟩

/-- What no command touches: the interrupt enables, CMD_LAST, the host's own registers and memories, HAZ and
the model's own fields (R49). -/
theorem Effect.frame {i : Instr} {s u : State} (h : Effect i s u) :
    u.ie = s.ie ∧ u.cmdLast = s.cmdLast ∧ u.errcode = s.errcode ∧ u.errcmd = s.errcmd ∧ u.klen = s.klen ∧
    u.xin = s.xin ∧ u.caLo = s.caLo ∧ u.caHi = s.caHi ∧ u.cbLo = s.cbLo ∧ u.cbHi = s.cbHi ∧
    u.ccLo = s.ccLo ∧ u.ccHi = s.ccHi ∧ u.kmem = s.kmem ∧ u.ibuf = s.ibuf ∧ u.env = s.env ∧
    u.status.busy = s.status.busy ∧ u.status.done = s.status.done ∧ u.status.err = s.status.err ∧
    u.status.haz = s.status.haz := by
  cases h <;> simp

end Sys2Proof.Machine
end

