-- ==== Sys2Proof/Laws/Host.lean ====
section
/-! SUPPORT. The host's names and expressions, and what the host's step can do. -/

namespace Sys2Proof.Machine

theorem lookupName_filter (n m : HostName) (ns : List (HostName × Int)) (h : m ≠ n) :
    lookupName m (ns.filter fun p => p.1 ≠ n) = lookupName m ns := by
  induction ns with
  | nil => rfl
  | cons p ns ih =>
    by_cases hp : p.1 = n
    · rw [List.filter_cons_of_neg (by simpa using hp), ih, lookupName, if_neg (fun h' => h (h'.symm.trans hp))]
    · rw [List.filter_cons_of_pos (by simpa using hp), lookupName, lookupName, ih]

/-- A bound name has its value, and every other name has the value it had. -/
theorem lookupName_bindName (n m : HostName) (v : Int) (ns : List (HostName × Int)) :
    lookupName m (bindName n v ns) = if m = n then some v else lookupName m ns := by
  rw [bindName, lookupName]
  by_cases h : m = n
  · rw [if_pos h.symm, if_pos h]
  · rw [if_neg (fun h' => h h'.symm), if_neg h, lookupName_filter n m ns h]

theorem lookupName_append (n : HostName) (a b : List (HostName × Int)) :
    lookupName n (a ++ b) = (lookupName n a).or (lookupName n b) := by
  induction a with
  | nil => rfl
  | cons p a ih =>
    rw [List.cons_append, lookupName, lookupName]
    split
    · rfl
    · exact ih

/-- A variable of a `for` has its value in the expressions of the line (R98). -/
theorem HostExpr.eval_close (e : HostExpr) (vars names : List (HostName × Int)) :
    (e.close vars).eval names = e.eval (vars ++ names) := by
  induction e with
  | num n => rfl
  | name n =>
    rw [close, eval, lookupName_append]
    cases h : lookupName n vars <;> simp [eval]
  | entry table i ih => simp only [close, eval, ih]
  | bits a hi lo ih => simp only [close, eval, ih]
  | neg a ih => simp only [close, eval, ih]
  | add a b iha ihb => simp only [close, eval, iha, ihb]
  | sub a b iha ihb => simp only [close, eval, iha, ihb]
  | mul a b iha ihb => simp only [close, eval, iha, ihb]
  | div a b iha ihb => simp only [close, eval, iha, ihb]
  | mod a b iha ihb => simp only [close, eval, iha, ihb]
  | pair a b iha ihb => simp only [close, eval, iha, ihb]

/-- Outside every `for` an expression stands as it is written. -/
@[simp] theorem HostExpr.close_nil (e : HostExpr) : e.close [] = e := by
  induction e <;> simp_all [close, lookupName]

/-- Outside every `for` a command line is assembled as it is written (R97). -/
theorem commandWord_nil (line : List Char) : commandWord [] line = Asm.assembleLine line := by
  have h : closeWord [] = id := by funext w; rfl
  unfold commandWord Asm.assembleLine
  split
  · next hw => rw [hw]; rfl
  · next m args hw => rw [hw, h, List.map_id]

/-- The block's state is as before a read into a name (R66). -/
theorem readInto_eq (off : Half) (n : HostName) (s : State) :
    readInto off n s = { s with env := (readInto off n s).env } := by
  unfold readInto assignName; rw [performRead_eq]

/-- A read gives its name the word on the bus. -/
theorem readInto_word {off : Half} {n : HostName} {s : State} {w : Word}
    (h : (performRead off s).env.busOut = some (.read w)) :
    readInto off n s = assignName n w.toNat (performRead off s) := by
  rw [readInto, h]; rfl

/-- What the host's step leaves of the model's own fields when it performs no write: its own list is the old one
or that without its head, and the schedule is as it was. -/
def Quiet (e e' : Env) : Prop :=
  e'.engineWait = e.engineWait ∧ e'.rstQ = e.rstQ ∧ (e'.hostQ = e.hostQ ∨ ∃ op, e.hostQ = op :: e'.hostQ)

theorem readInto_quiet (off : Half) (n : HostName) (s : State) : Quiet s.env (readInto off n s).env := by
  obtain ⟨h1, h2, h3, -⟩ := performRead_env off s
  exact ⟨h1, h2, .inl h3⟩

/-- Taking the head off the host's operations first. -/
theorem Quiet.pop {s : State} {op : HostOp} {q : List HostOp} {e : Env} (hq : s.env.hostQ = op :: q)
    (h : Quiet (setHostQ q s).env e) (hk : e.hostQ = q) : Quiet s.env e :=
  ⟨h.1, h.2.1, .inr ⟨op, by rw [hk]; exact hq⟩⟩

/-- The host's step leaves the block alone, or performs the write that is next in the queue (R6, R66). -/
theorem hostStep_cases (s : State) :
    (∃ e, Quiet s.env e ∧ hostStep s = { s with env := e }) ∨
    ∃ off v q, s.env.hostQ = .write off v :: q ∧
      hostStep s = acknowledgeWrite (writeLoc (locOf (off.offset s.env.names)) (v.word s.env.names)
        { s with env := { s.env with hostQ := q } }) := by
  have popped (off : Half) (n : HostName) (op : HostOp) (q : List HostOp) (hq : s.env.hostQ = op :: q) :
      Quiet s.env (readInto off n (setHostQ q s)).env :=
    (readInto_quiet off n (setHostQ q s)).pop hq (performRead_env off (setHostQ q s)).2.2.1
  unfold hostStep
  split
  · exact .inl ⟨_, ⟨rfl, rfl, .inl rfl⟩, rfl⟩
  · next off n q hq => exact .inl ⟨_, popped _ n _ q hq, readInto_eq _ _ _⟩
  · next off v q hq => exact .inr ⟨off, v, q, hq, rfl⟩
  · next n v q hq =>
    exact .inl ⟨{ s.env with hostQ := q, names := bindName n (v.eval s.env.names) s.env.names },
      ⟨rfl, rfl, .inr ⟨_, hq⟩⟩, rfl⟩
  · next q hq =>
    split
    · exact .inl ⟨_, readInto_quiet statusOffset waitName s, readInto_eq _ _ _⟩
    · exact .inl ⟨_, popped statusOffset waitName _ q hq, readInto_eq _ _ _⟩
  · next q hq =>
    split
    · exact .inl ⟨{ s.env with hostQ := q }, ⟨rfl, rfl, .inr ⟨_, hq⟩⟩, rfl⟩
    · exact .inl ⟨_, ⟨rfl, rfl, .inl rfl⟩, rfl⟩

end Sys2Proof.Machine
end

