-- ==== Sys2Proof/Laws/Operands.lean ====
section
/-! SUPPORT. The operands as elements of the memories: inside its range each operand is the element. -/

namespace Sys2Proof.Machine

theorem getD_word {n : Nat} (v : Vector Word n) (i : Nat) : v[i]?.getD 0#32 = v[i]! := getElem?_getD_eq v i

theorem getD_half {n : Nat} (v : Vector Half n) (i : Nat) : v[i]?.getD 0#16 = v[i]! := getElem?_getD_eq v i

theorem getD_dword {n : Nat} (v : Vector Dword n) (i : Nat) : v[i]?.getD 0#64 = v[i]! := getElem?_getD_eq v i

theorem State.tap_eq (s : State) (i : Nat) : s.tap i = (s.kact[i]!).toInt := by rw [State.tap, getD_word]

theorem State.sample_eq (s : State) (j : Nat) : s.sample j = (s.ibuf[j]!).toInt := by rw [State.sample, getD_half]

theorem State.carry_eq (s : State) (j : Nat) : s.carry j = (s.rem[j]!).toInt := by rw [State.carry, getD_dword]

theorem State.filtered_eq (s : State) (x : Nat) : s.filtered x = (s.obuf[x]!).toInt := by
  rw [State.filtered, getD_half]

theorem State.binSum_eq (s : State) (k : Nat) : s.binSum k = (s.acc[k]!).toNat := by rw [State.binSum, getD_dword]

/-- The bin sum of a bin given by its range. -/
theorem State.binSum_fin (s : State) (k : Fin Config.nbins) : s.binSum k.val = s.acc[k].toNat := by
  simp [State.binSum]

/-- A 32-bit signed value is below 2^31 in size (R136). -/
theorem abs_toInt_word (w : Word) : |w.toInt| ≤ 2 ^ 31 := by
  have h1 := BitVec.toInt_lt (x := w)
  have h2 := BitVec.le_toInt (x := w)
  rw [abs_le]; norm_num at h1 h2 ⊢; omega

/-- A sample is below 2^15 in size (R136). -/
theorem abs_toInt_half (w : Half) : |w.toInt| ≤ 2 ^ 15 := by
  have h1 := BitVec.toInt_lt (x := w)
  have h2 := BitVec.le_toInt (x := w)
  rw [abs_le]; norm_num at h1 h2 ⊢; omega

end Sys2Proof.Machine
end

