-- ==== Sys2Proof/Laws/PerInstr.lean ====
section
/-! SUPPORT. What holds of every command as syntax, one lemma per constructor (R91, R97). -/

namespace Sys2Proof.Laws

/-- The word of a command has its opcode in OP and 0 in RSV, and it matches the opcode map row of its
mnemonic. -/
def Encoding.Statement (i : Instr) : Prop :=
  (encode i).toNat / 2 ^ 24 = i.op.toNat ∧ (encode i).toNat / 2 ^ 16 % 256 = 0 ∧
  (∀ r ∈ opcodeTable, r.mnemonic = i.mnemonic → encode i &&& r.mask = r.bits)

theorem encode_fields (i : Instr) :
    (encode i).toNat / 2 ^ 24 = i.op.toNat ∧ (encode i).toNat / 2 ^ 16 % 256 = 0 := by
  constructor
  · rw [← toNat_opField]; exact congrArg BitVec.toNat (opField_word i.op 0x00#8 i.imm)
  · rw [← toNat_rsvField]; exact congrArg BitVec.toNat (rsvField_word i.op 0x00#8 i.imm)

/-- The upper half of a command word is its OP and RSV, whatever its operand (R91). -/
theorem upper_half (op : BitVec 8) (imm : Half) :
    (op ++ 0x00#8 ++ imm) &&& 0xFFFF0000#32 = op ++ 0x00#8 ++ 0#16 := by
  apply BitVec.eq_of_getLsbD_eq
  intro i hi
  simp only [BitVec.getLsbD_and, BitVec.getLsbD_append]
  by_cases h : i < 16
  · have : BitVec.getLsbD 0xFFFF0000#32 i = false := by interval_cases i <;> decide
    simp [h, this]
  · have : BitVec.getLsbD 0xFFFF0000#32 i = true := by interval_cases i <;> first | omega | decide
    simp [h, this]

theorem Encoding.nop : Encoding.Statement .nop := ⟨(encode_fields _).1, (encode_fields _).2, by decide⟩

theorem Encoding.kcommit : Encoding.Statement .kcommit := ⟨(encode_fields _).1, (encode_fields _).2, by decide⟩

theorem Encoding.rclr : Encoding.Statement .rclr := ⟨(encode_fields _).1, (encode_fields _).2, by decide⟩

theorem Encoding.filt : Encoding.Statement .filt := ⟨(encode_fields _).1, (encode_fields _).2, by decide⟩

theorem Encoding.spec : Encoding.Statement .spec := ⟨(encode_fields _).1, (encode_fields _).2, by decide⟩

theorem Encoding.accum : Encoding.Statement .accum := ⟨(encode_fields _).1, (encode_fields _).2, by decide⟩

theorem Encoding.aclr : Encoding.Statement .aclr := ⟨(encode_fields _).1, (encode_fields _).2, by decide⟩

theorem Encoding.domsel : Encoding.Statement .domsel := ⟨(encode_fields _).1, (encode_fields _).2, by decide⟩

theorem Encoding.domset (bin : Nat) : Encoding.Statement (.domset bin) := by
  refine ⟨(encode_fields _).1, (encode_fields _).2, ?_⟩
  simp only [opcodeTable, List.forall_mem_cons, Instr.mnemonic]
  refine ⟨nofun, nofun, nofun, nofun, nofun, nofun, nofun, nofun, fun _ => ?_, nofun, nofun⟩
  exact upper_half 0x08#8 (BitVec.ofNat 16 bin)

theorem Encoding.cls (src : ClsSrc) : Encoding.Statement (.cls src) := by
  refine ⟨(encode_fields _).1, (encode_fields _).2, ?_⟩
  cases src <;> decide

end Sys2Proof.Laws
end

