-- ==== Sys2Proof/Laws/Step.lean ====
section
/-! SUPPORT. What one step can do, said once: a reset, the engine step, or the host's step. -/

namespace Sys2Proof.Machine

/-- The engine step runs the decoded command or raises ILLEGAL (R115). -/
theorem engineStep_inv {s t : State} (h : engineStep s = .next t) :
    (∃ i, decode s.cmdLast = .ok i ∧ exec i s = .next t) ∨
    (∃ e, decode s.cmdLast = .error e ∧ t = raiseError .illegal s) := by
  unfold engineStep at h
  split at h
  · next i hi => exact .inl ⟨i, hi, h⟩
  · next e he => cases h; exact .inr ⟨e, he, rfl⟩

theorem engineStep_next (s : State) : ∃ t, engineStep s = .next t := by
  unfold engineStep
  split
  · exact exec_next _ _
  · exact ⟨_, rfl⟩

/-- The state the host's step starts from: the step has begun, and a command in flight is one step nearer to
its engine step. -/
def hostTurn (s : State) : State :=
  if s.status.busy then countDown (s.env.engineWait - 1) (beginStep s) else beginStep s

/-- One step: a reset while `rst_n` is low (R240); the engine step when it is due (R115, R262); otherwise the
host's step (R6). -/
theorem step_eq (s : State) :
    step s =
      if s.rstHigh = false then .next (resetBlock (beginStep s))
      else if s.status.busy = true ∧ s.env.engineWait = 0 then engineStep (beginStep s)
      else .next (hostStep (hostTurn s)) := by
  unfold step stepOnce
  cases hr : s.rstHigh with
  | false => rfl
  | true =>
    rw [if_pos rfl, if_neg (by decide)]
    unfold runningStep hostTurn
    by_cases hb : s.status.busy = true
    · rw [if_pos (show (beginStep s).status.busy = true from hb)]
      by_cases hw : s.env.engineWait = 0
      · rw [if_pos ⟨hb, hw⟩]
        have : (beginStep s).env.engineWait = 0 := hw
        rw [this]
      · rw [if_neg (fun h => hw h.2), if_pos hb]
        obtain ⟨n, hn⟩ := Nat.exists_eq_succ_of_ne_zero hw
        have : (beginStep s).env.engineWait = n + 1 := hn
        rw [this, hn]; rfl
    · rw [if_neg (show ¬ (beginStep s).status.busy = true from hb), if_neg (fun h => hb h.1), if_neg hb]

theorem step_next (s : State) : ∃ t, step s = .next t := by
  rw [step_eq]
  split
  · exact ⟨_, rfl⟩
  · split
    · exact engineStep_next _
    · exact ⟨_, rfl⟩

/-- Everything a step can do: reset, run the decoded command, raise ILLEGAL, or make the host's step. -/
theorem step_cases {s t : State} (h : step s = .next t) :
    (s.rstHigh = false ∧ t = resetBlock (beginStep s)) ∨
    (s.rstHigh = true ∧ s.status.busy = true ∧ s.env.engineWait = 0 ∧
      ((∃ i, decode s.cmdLast = .ok i ∧ exec i (beginStep s) = .next t) ∨
        ∃ e, decode s.cmdLast = .error e ∧ t = raiseError .illegal (beginStep s))) ∨
    (s.rstHigh = true ∧ ¬ (s.status.busy = true ∧ s.env.engineWait = 0) ∧ t = hostStep (hostTurn s)) := by
  rw [step_eq] at h
  split at h
  · next hr => cases h; exact .inl ⟨hr, rfl⟩
  · next hr =>
    have hr : s.rstHigh = true := by simpa using hr
    split at h
    · next hd => exact .inr (.inl ⟨hr, hd.1, hd.2, engineStep_inv h⟩)
    · next hd => cases h; exact .inr (.inr ⟨hr, hd, rfl⟩)

@[simp] theorem hostTurn_hostQ (s : State) : (hostTurn s).env.hostQ = s.env.hostQ := by
  unfold hostTurn; split <;> rfl

/-- The model's own fields as the host's step finds them. -/
def hostTurnEnv (s : State) : Env :=
  { s.env with
    rstQ := s.env.rstQ.tail, busOut := none
    engineWait := if s.status.busy then s.env.engineWait - 1 else s.env.engineWait }

/-- The host's turn finds the block as the step found it. -/
theorem hostTurn_eq (s : State) : hostTurn s = { s with env := hostTurnEnv s } := by
  unfold hostTurn hostTurnEnv; split <;> rfl

/-- The host's turn: with `rst_n` high and no engine step due, the step is the host's (R6, R262). -/
theorem step_host {s : State} (hr : s.rstHigh = true) (hd : ¬ (s.status.busy = true ∧ s.env.engineWait = 0)) :
    step s = .next (hostStep { s with env := hostTurnEnv s }) := by
  rw [step_eq, if_neg (by simp [hr]), if_neg hd, hostTurn_eq]

/-- What a step that is neither a reset nor an engine step does: the host writes, or nothing happens to the
block (R6, R66). -/
theorem hostStep_hostTurn (s : State) :
    (∃ e, Quiet (hostTurnEnv s) e ∧ hostStep (hostTurn s) = { s with env := e }) ∨
    ∃ off v q, s.env.hostQ = .write off v :: q ∧ hostStep (hostTurn s) =
      acknowledgeWrite (writeLoc (locOf (off.offset s.env.names)) (v.word s.env.names)
        { s with env := { hostTurnEnv s with hostQ := q } }) := by
  rw [hostTurn_eq]
  rcases hostStep_cases _ with ⟨e, he, h⟩ | ⟨off, v, q, h1, h2⟩
  · exact .inl ⟨e, he, h⟩
  · exact .inr ⟨off, v, q, h1, h2⟩

/-- A run of one more step. -/
theorem run_succ {k : Nat} {s t : State} (h : step s = .next t) : core.run (k + 1) s = core.run k t := by
  have h' : core.step s = .next t := h
  simp only [Host.Core.run, h']

end Sys2Proof.Machine
end

