-- ==== Sys2Proof/Laws/Tables.lean ====
section
/-! SUPPORT. What R152 and R155 state of the constant tables. -/

namespace Sys2Proof.Machine

/-- A property of 0 and of every listed entry holds of every entry. -/
theorem RomTable.entry_of_forall {p : Int → Prop} {rows : RomTable} (h0 : p 0)
    (h : ∀ r ∈ rows, ∀ v ∈ r, p v) (t : Nat) : p (rows.entry t) := by
  unfold RomTable.entry
  rw [List.getD_eq_getElem?_getD, List.getD_eq_getElem?_getD]
  cases h1 : rows[t / 10]? with
  | none => exact h0
  | some r =>
    cases h2 : r[t % 10]? with
    | none => simpa [h2] using h0
    | some v => simpa [h2] using h r (List.mem_of_getElem? h1) v (List.mem_of_getElem? h2)

/-- `0 ≤ W[x] ≤ 2^15` (R9). -/
theorem romW_mem (x : Nat) : 0 ≤ romW x ∧ romW x ≤ 2 ^ 15 :=
  RomTable.entry_of_forall (p := fun v => 0 ≤ v ∧ v ≤ 2 ^ 15) (by decide) (by decide +kernel) x

/-- `|C[t]| ≤ 2^15` (R9, R155). -/
theorem romC_mem (t : Nat) : |romC t| ≤ 2 ^ 15 :=
  RomTable.entry_of_forall (p := fun v => |v| ≤ 2 ^ 15) (by decide) (by decide +kernel) t

/-- `|S[t]| ≤ 2^15` (R9, R155). -/
theorem romS_mem (t : Nat) : |romS t| ≤ 2 ^ 15 :=
  RomTable.entry_of_forall (p := fun v => |v| ≤ 2 ^ 15) (by decide) (by decide +kernel) t

end Sys2Proof.Machine
end

