-- ==== Sys2Proof/Tests/Slice0.lean ====
section
/-! SUPPORT. The model's own tests. Expected values come from the spec: a test names the vector of
95_test_vectors.md or the rule it is taken from. After them, one witness for every statement with hypotheses:
a concrete state and operands that meet all of them. -/

namespace Sys2Proof.Tests

set_option Elab.async false

open Sys2Proof Sys2Proof.Machine Sys2Proof.Claims

/-! ### WellFormed and decoding -/

/-- R97: the assembler refuses a bin outside 0..65535; it accepts 65535 (V-E12). -/
theorem test_illformed_domset_refused : (Instr.domset 65536).wellFormed = false ∧
    (Instr.domset 65535).wellFormed = true ∧ Asm.assembleLine "DOMSET 65536".toList = none := by decide

/-- R90 to R93: each command from the bits of its fields OP, RSV and IMM16. -/
theorem test_decode_nop : decode 0b00000000_00000000_0000000000000000#32 = .ok .nop := by decide
theorem test_decode_kcommit : decode 0b00000001_00000000_0000000000000000#32 = .ok .kcommit := by decide
theorem test_decode_rclr : decode 0b00000010_00000000_0000000000000000#32 = .ok .rclr := by decide
theorem test_decode_filt : decode 0b00000011_00000000_0000000000000000#32 = .ok .filt := by decide
theorem test_decode_spec : decode 0b00000100_00000000_0000000000000000#32 = .ok .spec := by decide
theorem test_decode_accum : decode 0b00000101_00000000_0000000000000000#32 = .ok .accum := by decide
theorem test_decode_aclr : decode 0b00000110_00000000_0000000000000000#32 = .ok .aclr := by decide
theorem test_decode_domsel : decode 0b00000111_00000000_0000000000000000#32 = .ok .domsel := by decide
/-- Every bit of the operand counts: 0xA5C3 = 42435. -/
theorem test_decode_domset : decode 0b00001000_00000000_1010010111000011#32 = .ok (.domset 42435) := by decide +kernel
theorem test_decode_cls_xin : decode 0b00001001_00000000_0000000000000000#32 = .ok (.cls .xin) := by decide
theorem test_decode_cls_spec : decode 0b00001001_00000000_0000000000000001#32 = .ok (.cls .spec) := by decide

/-- V-E15 to V-E23. -/
theorem test_decode_illegal :
    [0x09000002#32, 0x09008001#32, 0x03010000#32, 0x08800007#32, 0x03000001#32, 0x00000001#32, 0x0A000000#32,
      0xFF000000#32, 0xFFFFFFFF#32].all (fun w => !(decode w).toBool) = true := by decide +kernel

/-- R100. -/
theorem test_assemble : Asm.assembleLine "DOMSET 0xdB".toList = some 0x080000DB#32 ∧
    Asm.assembleLine "CLS SPEC".toList = some 0x09000001#32 ∧
    Asm.assembleLine "KCOMMIT".toList = some 0x01000000#32 ∧ Asm.assembleLine "CLS".toList = none := by decide

/-- The table word of DOMSET with a zero operand field, and a reserved opcode. -/
theorem test_decodeTableWord : decodeTableWord 32 0x08000000 = some (.domset 0) ∧
    decodeTableWord 32 0x0A000000 = none := by decide

/-! ### The constant tables (R152) -/

theorem test_tables_size : romW 440 = 0 ∧ hannRows.flatten.length = 441 ∧ cosRows.flatten.length = 441 ∧
    sinRows.flatten.length = 441 := by decide +kernel

/-- R152: W[0] = W[440] = 0, W[220] = 32768, W[x] = W[440 - x], ΣW = 7208960; C[0] = 32768, S[0] = 0. -/
theorem test_tables_facts : romW 0 = 0 ∧ romW 220 = 32768 ∧ hannRows.flatten.reverse = hannRows.flatten ∧
    hannRows.flatten.sum = 7208960 ∧ romC 0 = 32768 ∧ romS 0 = 0 := by decide +kernel

/-- R152: the bounds of C[t]^2 + S[t]^2. -/
theorem test_tables_circle : ∀ p ∈ cosRows.flatten.zip sinRows.flatten,
    1073698442 ≤ p.1 * p.1 + p.2 * p.2 ∧ p.1 * p.1 + p.2 * p.2 ≤ 1073779514 := by decide +kernel

/-! ### States of the tests -/

/-- The state after reset with some flags and the host's operations `q` pending. -/
def hosting (f : Status) (q : List HostOp) : State :=
  { State.reset with status := f, env := { State.reset.env with hostQ := q } }

/-- The state after reset with the word `w` in flight, `n` steps from its engine step. -/
def inFlight (w : Word) (n : Nat) : State :=
  { State.reset with
    cmdLast := w, status := { Status.reset with busy := true }
    env := { State.reset.env with engineWait := n } }

/-- A committed kernel: `KACT` as the function `h`, of `k` taps. -/
def kerneled (h : Nat → Word) (k : Fin 1024) (x : Nat → Half) : State :=
  { State.reset with
    kact := tabulate 1023 h, kactlen := k, ibuf := tabulate 441 x
    status := { Status.reset with kvalid := true } }

/-- Every stage has run: the validity flags are set, the spectrum and the sums are constant. -/
def analysed (p : Word) (a : Dword) : State :=
  { State.reset with
    spec := Vector.replicate 220 p, acc := Vector.replicate 220 a, blkcnt := 1#32
    kactlen := ⟨1, by decide⟩
    status := { Status.reset with kvalid := true, obufv := true, specv := true, domv := true } }

/-- Coefficients and a sample for the comparator. -/
def comparing (a b c : Dword) (x : Word) : State :=
  { State.reset with
    caLo := wordOf a false, caHi := wordOf a true, cbLo := wordOf b false, cbHi := wordOf b true
    ccLo := wordOf c false, ccHi := wordOf c true, xin := x }

/-- The next state of an outcome. -/
def nextOf (o : Host.Outcome State Fault Refusal) : State :=
  match o with
  | .next t => t
  | .fault _ => State.reset
  | .refused _ => State.reset

/-- The STATUS word and the code of the last error. -/
def flagsOf (o : Host.Outcome State Fault Refusal) : Word × BitVec 8 :=
  ((nextOf o).status.word, (nextOf o).errcode.code)

/-! ### The commands -/

/-- V-K1. -/
theorem test_nop : flagsOf (step (inFlight 0x00000000#32 0)) = (0x002#32, 0#8) := by decide +kernel

/-- V-K4: KLEN = 1023 = KMAX is legal. -/
theorem test_kcommit : (nextOf (exec .kcommit { State.reset with klen := 1023#16 })).kactlen.val = 1023 := by
  decide +kernel

/-- V-K5 and V-K8. -/
theorem test_kcommit_refused : flagsOf (exec .kcommit State.reset) = (0x006#32, 2#8) ∧
    flagsOf (exec .kcommit { State.reset with klen := 1025#16 }) = (0x006#32, 2#8) := by decide +kernel

/-- V-K11, V-K12. -/
theorem test_rclr : (nextOf (exec .rclr { State.reset with
      rem := State.reset.rem.set 0 0x0000100000000000#64 })).rem[0] = 0#64 := by decide +kernel

/-- V-F2: the last output, the first two remainder entries, and an entry beyond R. -/
theorem test_filt_carry :
    let t := nextOf (exec .filt (kerneled (fun i => if i = 1 then 0x40000000#32 else 0x20000000#32) ⟨3, by decide⟩
      (fun j => if j = 440 then 16384#16 else 0#16)))
    t.obuf[440].toInt = 8192 ∧ t.rem[0].toNat = 2 ^ 44 ∧ t.rem[1].toNat = 2 ^ 43 ∧ t.rem[2] = 0#64 := by
  decide +kernel

/-- V-F5 with x = 20000: the output is clamped and SAT rises. -/
theorem test_filt_saturates :
    let t := nextOf (exec .filt (kerneled (fun _ => 0x7FFFFFFF#32) ⟨1, by decide⟩
      (fun j => if j = 0 then 20000#16 else 0#16)))
    t.obuf[0].toInt = 32767 ∧ t.status.sat = true ∧ t.status.obufv = true := by decide +kernel

/-- V-F4 and R133: ties go toward plus infinity. -/
theorem test_rounding : [3 * 2 ^ 29, -3 * 2 ^ 29, 2 ^ 29 - 1, -2 ^ 29].map (fun v => sat16 (rndHu v 30)) =
    [2, -1, 0, 0] := by decide

/-- V-S2 at k = 0 and k = 1, V-S1, and V-S4 at k = 7: the tone block T(x). -/
theorem test_spec_magnitudes : magBin (fun _ => 1000) 0 = 3520000 ∧ magBin (fun _ => 1000) 1 = 1765982 ∧
    magBin (fun _ => 0) 0 = 0 ∧ magBin (fun x => 10000 * romC (7 * x % 441) / 32768) 7 = 17600229 := by
  decide +kernel

/-- V-S8: SPEC without a filtered block. -/
theorem test_spec_refused : flagsOf (exec .spec State.reset) = (0x006#32, 4#8) := by decide +kernel

/-- R156: an entry at its limit and the block count at its limit saturate and set ASAT. -/
theorem test_accum_saturates :
    let t := nextOf (exec .accum { analysed 1#32 0xFFFFFFFFFFFFFFFF#64 with blkcnt := 0xFFFFFFFF#32 })
    t.acc[219] = 0xFFFFFFFFFFFFFFFF#64 ∧ t.blkcnt = 0xFFFFFFFF#32 ∧ t.status.asat = true := by decide +kernel

/-- V-A3. -/
theorem test_accum : (nextOf (exec .accum (analysed 3520000#32 3520000#64))).acc[0].toNat = 7040000 ∧
    (nextOf (exec .accum (analysed 3520000#32 3520000#64))).blkcnt = 2#32 := by decide +kernel

/-- V-A4. -/
theorem test_aclr : (nextOf (exec .aclr (analysed 1#32 5#64))).acc[0] = 0#64 ∧
    (nextOf (exec .aclr (analysed 1#32 5#64))).blkcnt = 0#32 ∧
    (nextOf (exec .aclr (analysed 1#32 5#64))).status.domv = true := by decide +kernel

/-- V-A8: sums 5, 9, 9, 1, others 0: the lowest index of the greatest sum. -/
theorem test_domsel : (nextOf (exec .domsel { analysed 0#32 0#64 with
      acc := tabulate 220 (fun k => if k = 0 then 5#64 else if k = 1 ∨ k = 2 then 9#64 else
        if k = 3 then 1#64 else 0#64) })).dom.val = 1 := by decide +kernel

/-- V-A5. -/
theorem test_domsel_refused : flagsOf (exec .domsel State.reset) = (0x006#32, 6#8) := by decide +kernel

/-- V-E10 and V-A11. -/
theorem test_domset : (nextOf (exec (.domset 219) State.reset)).dom.val = 219 ∧
    flagsOf (exec (.domset 220) { State.reset with dom := ⟨7, by decide⟩ }) = (0x006#32, 8#8) := by decide +kernel

/-- V-C3, the CLSHIST example of section 2.7 (bit 31 falls out), and V-C10 and V-C9: NODOM is checked first. -/
theorem test_cls :
    [0#32, 2#32, 3#32, 5#32, 7#32, 8#32].map (fun x => (nextOf (exec (.cls .xin)
      (comparing 1#64 (-10#64) 21#64 x))).status.clsres) = [true, true, false, false, false, true] ∧
    (nextOf (exec (.cls .xin) { State.reset with clshist := 0x80000000#32 })).clshist = 0#32 ∧
    flagsOf (exec (.cls .spec) State.reset) = (0x006#32, 7#8) ∧
    flagsOf (exec (.cls .spec) { State.reset with status := { Status.reset with domv := true } }) =
      (0x206#32, 5#8) := by decide +kernel

/-- V-C4a and V-C4b, the extreme coefficients on the largest sample, and V-C5. -/
theorem test_cls_decides :
    (comparing 0x7FFFFFFFFFFFFFFF#64 0#64 0x8000000000000000#64 0#32).decides 4294967295 = true ∧
    (comparing 0x8000000000000000#64 0x7FFFFFFFFFFFFFFF#64 0x7FFFFFFFFFFFFFFF#64 0#32).decides 4294967295 =
      false ∧
    [0, 100, 404, 405, 1000, 4294967295].map (fun x =>
      (comparing 0x000013A92A305532#64 0x001EB851EB851EB8#64 0x9E75A564CFD8BBBB#64 0#32).decides x) =
    [false, false, false, true, true, true] := by decide +kernel

/-! ### The bus -/

/-- What a read of offset `off` returns. -/
def readAt (off : Half) (s : State) : Option BusResult := (performRead off s).env.busOut

/-- V-B1 to V-B3, V-B5, V-B7. -/
theorem test_bus_reset_reads :
    [0x000#16, 0x008#16, 0x04C#16, 0x050#16, 0x054#16, 0x2000#16, 0x2004#16, 0x3FEC#16, 0x3FF0#16, 0x86DC#16,
      0x86E0#16, 0x058#16, 0x0FFC#16, 0x7000#16, 0xA000#16, 0xFFFC#16].map (fun o => readAt o State.reset) =
    [0x43574631#32, 0#32, 0x1B9#32, 0x3FF#32, 0xDC#32, 0#32, 0#32, 0#32, 0#32, 0#32, 0#32, 0#32, 0#32, 0#32, 0#32,
      0#32].map (fun w => some (.read w)) := by decide +kernel

/-- V-B9 and V-B10: sign extension, and the ignored low offset bits. -/
theorem test_bus_samples :
    readAt 0x4000#16 (performWrite 0x4000#16 0x12348000#32 State.reset) = some (.read 0xFFFF8000#32) ∧
    readAt 0x4004#16 (performWrite 0x4006#16 0x00007FFF#32 State.reset) = some (.read 0x00007FFF#32) := by
  decide +kernel

/-- V-B11: the low word is at the lower offset. -/
theorem test_bus_pairs :
    (performWrite 0x200C#16 0x01234567#32 (performWrite 0x2008#16 0x89ABCDEF#32 State.reset)).rem[1] =
      0x0123456789ABCDEF#64 := by decide +kernel

/-- V-B8, V-B12 to V-B15, V-B17. -/
theorem test_bus_writes :
    readAt 0x000#16 (performWrite 0x000#16 5#32 State.reset) = some (.read 0x43574631#32) ∧
    readAt 0x01C#16 (performWrite 0x01C#16 0xFFFF0003#32 State.reset) = some (.read 3#32) ∧
    readAt 0x008#16 (performWrite 0x008#16 0xFFFFFFFF#32 State.reset) = some (.read 0#32) ∧
    readAt 0x00C#16 (performWrite 0x00C#16 0xFFFFFFFF#32 State.reset) = some (.read 7#32) ∧
    readAt 0x004#16 (performWrite 0x004#16 0#32 State.reset) = some (.read 0#32) ∧
    readAt 0x1FFC#16 (performWrite 0x1FFC#16 7#32 State.reset) = some (.read 0#32) := by decide +kernel

/-- V-B16 and V-X11: the soft reset, with a command in flight. -/
theorem test_bus_softReset :
    readAt 0x02C#16 (performWrite 0x004#16 1#32 (performWrite 0x02C#16 0xDEADBEEF#32 State.reset)) =
      some (.read 0#32) ∧
    readAt 0x008#16 (performWrite 0x004#16 1#32 (inFlight 0x03000000#32 9)) = some (.read 0#32) := by decide +kernel

/-- V-B19. -/
theorem test_bus_coefficient :
    (performWrite 0x034#16 0x80000000#32 (performWrite 0x030#16 1#32 State.reset)).ca = -2 ^ 63 + 1 := by
  decide +kernel

/-- V-X1 to V-X3: an error halts, a command is dropped, the error return. -/
theorem test_halt_and_return :
    let t := nextOf (step (inFlight 0x03000000#32 0))
    let u := performWrite 0x010#16 0#32 t
    let v := performWrite 0x008#16 0x4#32 u
    t.status.word = 0x006#32 ∧ t.errcmd = 0x03000000#32 ∧ t.mode = .halted ∧
    u.status.word = 0x00E#32 ∧ u.cmdLast = 0x03000000#32 ∧
    v.status.word = 0x00A#32 ∧ v.mode = .idle ∧ v.errcode = .nokernel := by decide +kernel

/-- V-X9 and V-X12: while BUSY an IBUF write is dropped and an IE write performed. -/
theorem test_busy_writes :
    (performWrite 0x4000#16 5#32 (inFlight 0x03000000#32 1)).status.word = 0x009#32 ∧
    (performWrite 0x00C#16 1#32 (inFlight 0x03000000#32 1)).ie = { doneIe := true, errIe := false, hazIe := false } := by
  decide +kernel

/-- V-X5, V-X7, V-X8. -/
theorem test_irq :
    State.irq { hosting { Status.reset with done := true } [] with ie := IntEnable.ofWord 1#32 } = true ∧
    State.irq { hosting { Status.reset with haz := true } [] with ie := IntEnable.ofWord 4#32 } = true ∧
    State.irq (hosting { Status.reset with done := true, err := true, haz := true } []) = false := by decide +kernel

/-- A host write of a number to a number. -/
def wr (off v : Int) : HostOp := .write (.num off) (.num v)

/-- R98 and P1: lines of a host program; a command line the assembler refuses (R97) has no expansion. -/
theorem test_host_program :
    (HostLine.run "FILT".toList).expand = some [wr 0x010 0x03000000, .wait] ∧
    (HostLine.cmd "DOMSET 65536".toList).expand = none ∧
    (HostLine.forIn ['b'] 6 7 (.cmd "DOMSET b".toList)).expand = some [wr 0x010 0x08000006, wr 0x010 0x08000007] ∧
    (HostLine.forIn ['i'] 0 1 (.forIn ['j'] 5 6 (.wr (.name ['i']) (.name ['j'])))).expand =
      some [wr 0 5, wr 0 6, wr 1 5, wr 1 6] ∧
    ((HostLine.forIn ['i'] 0 2 (.wri (.name ['i']) (.sub (.name ['i']) (.num 220)))).expand.getD []).map (fun op =>
      match op with
      | .write o e => (o.offset [], e.word [])
      | _ => (0#16, 0#32)) = [(0x4000#16, 0xFF24#32), (0x4004#16, 0xFF25#32), (0x4008#16, 0xFF26#32)] := by
  decide +kernel

/-- P3: `rd 0x6000 + 4*d -> m0` with d = 7 reads SPEC[7] into m0, and `wr64 CC_LO, -(m0 + m1)` writes the two words
listed. -/
theorem test_host_names :
    lookupName ['m', '0'] (nextOf (step { hosting Status.reset
      [.read (.add (.num 0x6000) (.mul (.num 4) (.name ['d']))) ['m', '0']] with
      spec := tabulate 220 (fun k => if k = 7 then 17600229#32 else 0#32)
      env := { (hosting Status.reset
        [.read (.add (.num 0x6000) (.mul (.num 4) (.name ['d']))) ['m', '0']]).env with
        names := [(['d'], 7)] } })).env.names = some 17600229 ∧
    (((HostLine.wr64 Reg.ccLo.offset (.neg (.add (.name ['m', '0']) (.name ['m', '1'])))).expand.getD []).map
      fun op => match op with
        | .write o e => (o.offset [], e.word [(['m', '0'], 17600229), (['m', '1'], 0)])
        | _ => (0#16, 0#32)) = [(0x040#16, 0xFEF3711B#32), (0x044#16, 0xFFFFFFFF#32)] := by
  decide +kernel

/-- R49, R113: a FILT in flight without a kernel is going to raise NOKERNEL; it writes no entry, so REM and OBUF read
their current values. -/
theorem test_busy_read_of_failing_command :
    readAt 0x2000#16 (inFlight 0x03000000#32 1) = some (.read 0#32) ∧
    inFlightEntry (inFlight 0x03000000#32 1) (locOf 0x5000#16) = false ∧
    inFlightEntry { inFlight 0x03000000#32 1 with status := { Status.reset with busy := true, kvalid := true } }
      (locOf 0x5000#16) = true := by decide +kernel

/-- The placed word is the one the next step runs. -/
theorem test_withFetchWord : flagsOf (step (State.reset.withFetchWord 32 0x0800FFFF)) = (0x006#32, 8#8) ∧
    (nextOf (step (State.reset.withFetchWord 32 0x080000DB))).dom.val = 219 := by decide +kernel

/-! ### Witnesses: a state and operands that meet the hypotheses of each statement -/

theorem hosting_turn (q : List HostOp) (f : Status) (h : f.busy = false) : HostTurn (hosting f q) :=
  ⟨rfl, fun h' => Bool.noConfusion (h.symm.trans h'.2.1)⟩

theorem hosting_writes (o e : HostExpr) (q : List HostOp) (f : Status) (h : f.busy = false) :
    HostWrites (hosting f (.write o e :: q)) (o.offset []) (e.word []) :=
  ⟨hosting_turn _ _ h, o, e, q, rfl, rfl, rfl⟩

theorem inFlight_due (w : Word) : EngineDue (inFlight w 0) := ⟨rfl, rfl, rfl⟩

theorem runs_inFlight {w : Word} {i : Instr} (h : decode w = .ok i) : Runs (inFlight w 0) i := ⟨inFlight_due w, h⟩

theorem running_not_resets {s : State} (h : EngineDue s) : ¬ Resets s := by
  rintro (h1 | ⟨off, v, h1, -⟩)
  · exact Bool.noConfusion (h1.symm.trans h.1)
  · exact h1.1.2 h

/-- A state whose host is about to do a write that is no soft reset. -/
theorem host_not_resets {s : State} {o e : HostExpr} {q : List HostOp} (h1 : s.rstHigh = true)
    (h2 : s.env.hostQ = .write o e :: q) (h3 : aligned (o.offset s.env.names) ≠ 0x004) : ¬ Resets s := by
  rintro (h | ⟨off, v, ⟨-, o', e', q', h, h4, -⟩, h5⟩)
  · exact Bool.noConfusion (h.symm.trans h1)
  · rw [h2] at h; cases h; rw [← h4] at h5; exact h3 h5.1

/-- A write of a number at a number never sets SRST at another offset than that of CTRL. -/
theorem wr_not_maySoftReset {off v : Int} (h : aligned (BitVec.ofInt 16 off) ≠ 0x004) : ¬ MaySoftReset (wr off v) := by
  rintro ⟨o, e, names, h1, h2⟩; cases h1; exact h h2.1

/-- The word `w` in flight, `n` steps from its engine step, and the host's operations `q` pending. -/
def inFlightHosting (w : Word) (n : Nat) (q : List HostOp) : State :=
  { inFlight w n with env := { (inFlight w n).env with hostQ := q } }

theorem not_due (w : Word) (n : Nat) (q : List HostOp) : ¬ EngineDue (inFlightHosting w (n + 1) q) :=
  fun h => Nat.succ_ne_zero n h.2.2

theorem witness_DecodeInvertsEncode : (Instr.domset 65535).wellFormed = true := by decide

theorem witness_DecodedWordIsTheEncoding : decode 0x0800FFFF#32 = .ok (.domset 65535) := by decide +kernel

theorem witness_LegalWordMatchesExactlyOneRow :
    decode 0x09000001#32 = .ok (.cls .spec) ∧ ⟨"CLS", 0xFFFFFFFE#32, 0x09000000#32⟩ ∈ opcodeTable ∧
    0x09000001#32 &&& 0xFFFFFFFE#32 = 0x09000000#32 := by decide

/-- One word for each clause: the first reserved opcode, RSV, the last opcode with a zero operand, CLS. -/
theorem witness_ReservedWordRaisesIllegal :
    (EngineDue (inFlight 0x0A000000#32 0) ∧ 10 ≤ (0x0A000000#32 : Word).toNat / 2 ^ 24) ∧
    (EngineDue (inFlight 0x08010000#32 0) ∧ (0x08010000#32 : Word).toNat / 2 ^ 16 % 256 ≠ 0) ∧
    (EngineDue (inFlight 0x07000001#32 0) ∧ (0x07000001#32 : Word).toNat / 2 ^ 24 ≤ 7 ∧
      (0x07000001#32 : Word).toNat % 2 ^ 16 ≠ 0) ∧
    (EngineDue (inFlight 0x09000002#32 0) ∧ (0x09000002#32 : Word).toNat / 2 ^ 24 = 9 ∧
      (0x09000002#32 : Word).toNat % 2 ^ 16 / 2 ≠ 0) :=
  ⟨⟨inFlight_due _, by decide⟩, ⟨inFlight_due _, by decide⟩, ⟨inFlight_due _, by decide⟩, inFlight_due _, by decide⟩

theorem witness_StepRunsTheDecodedCommand : Runs (inFlight 0x080000DB#32 0) (.domset 219) :=
  runs_inFlight (by decide +kernel)

/-- A state in flight that meets the invariant, and its step. -/
theorem witness_EveryStepKeepsTheInvariant :
    (inFlight 0x02000000#32 3).Inv ∧ ∃ t, step (inFlight 0x02000000#32 3) = .next t := by
  refine ⟨?_, step_next _⟩
  constructor <;> simp [inFlight, State.reset, State.atReset, Status.reset]

theorem witness_HardResetOverridesEverything : (rstAsserted (inFlight 0x03000000#32 0)).rstHigh = false := rfl

theorem witness_EachResetDrawsTheUnspecifiedMemories : (rstAsserted (hosting Status.reset [.wait])).rstHigh = false := rfl

theorem witness_SoftResetEqualsHardReset :
    HostWrites (hosting Status.reset [wr 0x007 0x80000001]) 0x007#16 0x80000001#32 ∧
    HostWrites (inFlightHosting 0x03000000#32 1 [wr 0x007 0x80000001]) 0x007#16 0x80000001#32 ∧
    IsSoftReset 0x007#16 0x80000001#32 :=
  ⟨hosting_writes _ _ _ _ rfl, ⟨⟨rfl, not_due _ _ _⟩, _, _, _, rfl, rfl, rfl⟩, by decide, by decide⟩

/-- A host with each kind of operation next. -/
theorem witness_HostStepPerformsTheNextOperation :
    HostTurn (hosting Status.reset []) ∧ HostTurn (hosting Status.reset [wr 0 0]) ∧
    HostTurn (hosting Status.reset [.read (.num 0) ['a']]) ∧
    HostTurn (hosting Status.reset [.assign ['a'] (.name ['b'])]) ∧ HostTurn (hosting Status.reset [.wait]) ∧
    HostTurn (inFlightHosting 0x03000000#32 1 [.wait]) ∧ HostTurn (hosting Status.reset [.waitIrq]) :=
  ⟨hosting_turn _ _ rfl, hosting_turn _ _ rfl, hosting_turn _ _ rfl, hosting_turn _ _ rfl, hosting_turn _ _ rfl,
    ⟨rfl, not_due _ _ _⟩, hosting_turn _ _ rfl⟩

/-- The refused lengths 0, 2 and 1025, and the shortest and the longest kernel. -/
theorem witness_KcommitLatchesTheKernel :
    (∀ n ∈ [0, 2, 1025], let s := { State.reset with klen := BitVec.ofNat 16 n }
      s.klen.toNat = 0 ∨ s.klen.toNat % 2 = 0 ∨ 1023 < s.klen.toNat) ∧
    (∀ n ∈ [1, 1023], let s := { State.reset with klen := BitVec.ofNat 16 n }
      s.klen.toNat % 2 = 1 ∧ s.klen.toNat ≤ 1023) := by
  simp

/-- Each check, failing first, with the illegal word and bin 220 at the edge; and a command that passes. -/
theorem witness_EngineReportsTheFirstFailedCheck :
    (∀ p ∈ [(0x0A000000, ErrCode.illegal), (0x01000000, .badklen), (0x03000000, .nokernel), (0x04000000, .noobuf),
        (0x05000000, .nospec), (0x07000000, .nodata), (0x080000DC, .badbin), (0x09000001, .nodom)],
      EngineDue (inFlight (BitVec.ofNat 32 p.1) 0) ∧ firstFailed (inFlight (BitVec.ofNat 32 p.1) 0) = some p.2) ∧
    (∃ s, EngineDue s ∧ firstFailed s = some .nospec ∧ s.status.domv = true) ∧
    EngineDue (inFlight 0x080000DB#32 0) ∧ firstFailed (inFlight 0x080000DB#32 0) = none := by
  refine ⟨?_, ⟨(hosting { Status.reset with domv := true } []).withFetchWord 32 0x09000001, ⟨rfl, rfl, rfl⟩,
    by decide +kernel, rfl⟩, inFlight_due _, by decide +kernel⟩
  simp only [List.forall_mem_cons]
  exact ⟨⟨inFlight_due _, by decide +kernel⟩, ⟨inFlight_due _, by decide +kernel⟩,
    ⟨inFlight_due _, by decide +kernel⟩, ⟨inFlight_due _, by decide +kernel⟩, ⟨inFlight_due _, by decide +kernel⟩,
    ⟨inFlight_due _, by decide +kernel⟩, ⟨inFlight_due _, by decide +kernel⟩, ⟨inFlight_due _, by decide +kernel⟩, nofun⟩

theorem witness_FiltFiltersOneBlock : State.reset.status.kvalid = false ∧
    (kerneled (fun _ => 1#32) ⟨1023, by decide⟩ (fun _ => 1#16)).status.kvalid = true := ⟨rfl, rfl⟩

/-- The hypotheses of the two statements about streams. -/
theorem witness_StreamingEqualsBatchFiltering :
    let s := kerneled (fun _ => 1#32) ⟨3, by decide⟩ (fun _ => 1#16)
    s.status.kvalid = true ∧ ∀ j, j + 1 < s.kactlen.val → s.rem[j]! = 0#64 := by
  refine ⟨rfl, fun j h => ?_⟩
  have h : j + 1 < 3 := h
  show (Vector.replicate 1022 0#64)[j]! = 0#64
  rw [getElem!_pos _ j (by omega), Vector.getElem_replicate]

theorem witness_ConvolutionStaysBelowTwoPow56 :
    let s := kerneled (fun _ => 1#32) ⟨3, by decide⟩ (fun _ => 1#16)
    s.status.kvalid = true ∧ ∀ j, j + 1 < s.kactlen.val → s.rem[j]! = 0#64 := witness_StreamingEqualsBatchFiltering

theorem witness_SpecComputesTheMagnitudes : State.reset.status.obufv = false ∧ (analysed 1#32 1#64).status.obufv = true :=
  ⟨rfl, rfl⟩

theorem witness_MagnitudesStayInRange : (analysed 1#32 1#64).status.obufv = true ∧
    ∃ t, exec .spec (analysed 1#32 1#64) = .next t := ⟨rfl, exec_next _ _⟩

theorem witness_AccumAddsTheSpectrum : State.reset.status.specv = false ∧ (analysed 1#32 1#64).status.specv = true :=
  ⟨rfl, rfl⟩

theorem witness_DomselSelectsTheLowestMaximum : State.reset.blkcnt = 0#32 ∧ (analysed 1#32 1#64).blkcnt ≠ 0#32 :=
  ⟨rfl, by show (1#32 : Word) ≠ 0#32; decide⟩

/-- ASAT after an ACCUM of the spectrum `p`. -/
theorem accumulated_asat (s : State) (p : Vector Word 220) (h : s.status.specv = true) :
    (accumulated s p).status.asat = (s.status.asat || ({ s with spec := p } : State).accumSaturates) := by
  simp [accumulated, exec, execAccum, h]

theorem witness_DomselMaximisesTheAverage :
    let s := { analysed 1#32 0#64 with blkcnt := 0#32 }
    let spectra : Nat → Vector Word 220 := fun _ => Vector.replicate 220 0x3FFFFFFF#32
    s.status.specv = true ∧ s.blkcnt = 0#32 ∧ (∀ k < 220, s.acc[k]! = 0#64) ∧ 0 < 1 ∧
    (window s spectra 1).status.asat = false := by
  intro s spectra
  refine ⟨rfl, rfl, fun k h => ?_, by decide, ?_⟩
  · show (Vector.replicate 220 0#64)[k]! = 0#64
    rw [getElem!_pos _ k h, Vector.getElem_replicate]
  · have h : ({ s with spec := spectra 0 } : State).accumSaturates = false := by
      rw [Bool.eq_false_iff, Ne, State.accumSaturates, Bool.or_eq_true, anyFrom_iff]
      rintro (⟨k, -, h, h2⟩ | h2)
      · have hk : k < 220 := by omega
        revert h2
        simp [State.newBinSum, State.binSum, s, spectra, analysed, overflows64, hk]
      · exact absurd h2 (by simp [s])
    rw [show window s spectra 1 = accumulated s (spectra 0) from rfl, accumulated_asat s _ rfl, h]; rfl

theorem witness_DomsetSetsTheBin : 65535 < 2 ^ 16 ∧ (219 : Fin 220).val < 220 ∧ 220 ≤ 220 := by decide

/-- Both sources, and both refusals. -/
theorem witness_ClsDecidesByTheQuadratic : clsSample State.reset .xin = some 0#32 ∧
    clsSample { analysed 7#32 0#64 with dom := ⟨219, by decide⟩ } .spec = some 7#32 ∧
    State.reset.status.domv = false ∧
    (hosting { Status.reset with domv := true } []).status.domv = true ∧
    (hosting { Status.reset with domv := true } []).status.specv = false := by decide +kernel

theorem witness_MidpointProgrammingDecidesByTheMidpoint :
    let s := comparing 0#64 2#64 (-12#64) 7#32
    clsSample s .xin = some 7#32 ∧ coefA s = 0 ∧ coefB s = 2 ∧ coefC s = -(3 + 9) ∧ (3 : Int) < 9 := by
  decide +kernel

/-- The three coefficients at 0, and a sample. -/
theorem witness_CoefficientsAreWrittenByHalves : State.reset.status.busy = false ∧
    clsSample State.reset .xin = some 0#32 ∧ coefA State.reset = 0 ∧ coefB State.reset = 0 ∧
    coefC State.reset = 0 := by decide +kernel

/-- A CTRL write with and without SRST, and a CMD write in and out of mode IDLE. -/
theorem witness_RegistersReadTheirValues : (0xFFFFFFFE#32 : Word).getLsbD 0 = false ∧
    (0x00000001#32 : Word).getLsbD 0 = true ∧ State.reset.mode = .idle ∧ (inFlight 0#32 0).mode ≠ .idle ∧
    State.reset.status.busy = false := by decide +kernel

/-- Two components of variance 1 and equal weight, means 2 and 0: the decision is 4x - 4 > 0; at x = 3. -/
theorem witness_ClsAgreesWithTheFittedDecision :
    let s := comparing 0#64 4#64 (-4#64) 3#32
    clsSample s .xin = some 3#32 ∧ ((1 : ℝ) = 1 ∨ (1 : ℝ) = 2) ∧ (0 : ℝ) < 1 / 2 ∧ (0 : ℝ) < 1 ∧
    |(coefA s : ℝ) - 1 * fitA 1 1 1| ≤ 1 / 2 ∧ |(coefB s : ℝ) - 1 * fitB 1 2 1 0 1| ≤ 1 / 2 ∧
    |(coefC s : ℝ) - 1 * fitC 1 (1 / 2) 2 1 (1 / 2) 0 1| ≤ 1 / 2 ∧
    (((3#32 : Word).toNat : ℝ) ^ 2 + (3#32 : Word).toNat + 1) / 2 <
      |1 * (fitA 1 1 1 * ((3#32 : Word).toNat : ℝ) ^ 2 + fitB 1 2 1 0 1 * (3#32 : Word).toNat +
        fitC 1 (1 / 2) 2 1 (1 / 2) 0 1)| := by
  have a : coefA (comparing 0#64 4#64 (-4#64) 3#32) = 0 := by decide +kernel
  have b : coefB (comparing 0#64 4#64 (-4#64) 3#32) = 4 := by decide +kernel
  have c : coefC (comparing 0#64 4#64 (-4#64) 3#32) = -4 := by decide +kernel
  have x : (3#32 : Word).toNat = 3 := rfl
  refine ⟨rfl, .inl rfl, by norm_num, by norm_num, ?_, ?_, ?_, ?_⟩
  · rw [a]; norm_num [fitA]
  · rw [b]; norm_num [fitB]
  · rw [c]; norm_num [fitC]
  · rw [x]; norm_num [fitA, fitB, fitC, abs_of_pos]

/-- A command that errs and one that completes. -/
theorem witness_CommandsErrPreciselyOrComplete :
    exec .filt State.reset = .next (erred .nokernel State.reset) ∧ ∃ t, exec .nop State.reset = .next t :=
  ⟨rfl, _, rfl⟩

theorem witness_StatusAndEnableWrites :
    aligned 0x004#16 = 0x004 ∧ aligned 0x007#16 = 0x004 ∧ (0xFFFFFFFE#32 : Word).getLsbD 0 = false ∧
    (0x00000001#32 : Word).getLsbD 0 = true ∧
    aligned 0x008#16 = 0x008 ∧ aligned 0x00B#16 = 0x008 ∧ aligned 0x00C#16 = 0x00C ∧ aligned 0x00F#16 = 0x00C := by
  decide

theorem witness_CmdWriteIsAcceptedOnlyWhenIdle : aligned 0x013#16 = 0x010 ∧ State.reset.mode = .idle ∧
    (inFlight 0#32 0).mode ≠ .idle ∧ (hosting { Status.reset with err := true } []).mode ≠ .idle := by
  decide +kernel

/-- The step that leaves mode HALTED, and one that stays in it. -/
theorem witness_HaltedIsLeftOnlyByTheHost :
    let s (v : Int) := hosting { Status.reset with err := true } [wr 0x008 v]
    ∀ v ∈ [(4 : Int), 2], (s v).mode = .halted ∧ (∃ t, step (s v) = .next t) ∧ ¬ Resets (s v) := by
  intro s v _
  exact ⟨rfl, step_next _, host_not_resets rfl rfl (by show aligned 0x008#16 ≠ 0x004; decide)⟩

theorem witness_IrqFollowsStatusAndEnables :
    performRead 0x008#16 State.reset = readDone 0#32 State.reset ∧
    performRead 0x00C#16 State.reset = readDone 0#32 State.reset :=
  ⟨performRead_reg State.reset (n := 8) (r := .status) (by decide) rfl,
    performRead_reg State.reset (n := 12) (r := .ie) (by decide) rfl⟩

theorem witness_MemoriesReadTheirEntries : State.reset.status.busy = false ∧ 1022 < 1023 ∧ 1021 < 1022 ∧ 440 < 441 ∧
    219 < 220 := ⟨rfl, by decide, by decide, by decide, by decide⟩

/-- The ends of every unmapped range, and every read-only register and window end. -/
theorem witness_UnmappedAndReadOnlyAccesses :
    (∀ o ∈ [0x058#16, 0xFFF#16, 0x1FFC#16, 0x1FFF#16, 0x3FF0#16, 0x3FFF#16, 0x46E4#16, 0x4FFF#16, 0x56E4#16,
      0x5FFF#16, 0x6370#16, 0x7FFF#16, 0x86E0#16, 0xFFFF#16], Unmapped o) ∧
    (∀ o ∈ [0x000#16, 0x014#16, 0x018#16, 0x020#16, 0x024#16, 0x028#16, 0x04C#16, 0x050#16, 0x054#16, 0x5000#16,
      0x56E3#16, 0x6000#16, 0x636F#16, 0x8000#16, 0x86DF#16], ReadOnly o) := by
  simp [Unmapped, ReadOnly, aligned]

theorem witness_LowOffsetBitsAreIgnored : aligned 0x4004#16 = aligned 0x4007#16 := by decide

theorem witness_HostWritesReachTheirLocation : State.reset.status.busy = false := rfl

/-- Dropped writes at both ends of each range, and two that are ignored. -/
theorem witness_BusyDropsHostWrites : (inFlight 0x03000000#32 1).status.busy = true ∧
    (∀ o ∈ [0x010#16, 0x01C#16, 0x02C#16, 0x04B#16, 0x1000#16, 0x1FFB#16, 0x2000#16, 0x3FEF#16, 0x4000#16, 0x46E3#16],
      aligned o ≠ 0x004 ∧ aligned o ≠ 0x008 ∧ aligned o ≠ 0x00C ∧ DroppedWhileBusy o) ∧
    (∀ o ∈ [0x000#16, 0x5000#16, 0x058#16], aligned o ≠ 0x004 ∧ aligned o ≠ 0x008 ∧ aligned o ≠ 0x00C ∧
      ¬ DroppedWhileBusy o) ∧
    Unmapped 0x058#16 ∧ Unmapped 0xFFFF#16 ∧ ReadOnly 0x000#16 ∧ ReadOnly 0x86DF#16 := by
  refine ⟨rfl, ?_⟩
  simp [DroppedWhileBusy, Unmapped, ReadOnly, aligned]

/-- A FILT of a three-tap kernel in flight: the entries at the ends of its write set are in it, the first
remainder entry above is not; and a FILT that is going to fail, and an illegal word, in flight. -/
theorem witness_ReadsWhileBusy :
    let s := { inFlight 0x03000000#32 1 with
      kactlen := ⟨3, by decide⟩, status := { Status.reset with busy := true, kvalid := true } }
    s.status.busy = true ∧ decode s.cmdLast = .ok .filt ∧ firstFailed s = none ∧
    InWriteSet .filt s 0x5000#16 ∧ InWriteSet .filt s 0x56E3#16 ∧ InWriteSet .filt s 0x2000#16 ∧
    InWriteSet .filt s 0x200F#16 ∧ ¬ InWriteSet .filt s 0x2010#16 ∧ ¬ InWriteSet .filt s 0x008#16 ∧
    ¬ InWriteSet .domsel s 0x8000#16 ∧ InWriteSet .spec s 0x6000#16 ∧ InWriteSet .aclr s 0x86DF#16 ∧
    InWriteSet .kcommit s 0x3FEF#16 ∧ firstFailed (inFlight 0x03000000#32 1) ≠ none ∧
    firstFailed (inFlight 0xFFFFFFFF#32 1) ≠ none ∧ State.reset.status.busy = false := by
  refine ⟨rfl, by decide, by decide +kernel, ?_, ?_, ?_, ?_, ?_, ?_, ?_, ?_, ?_, ?_, by decide +kernel,
    by decide +kernel, rfl⟩ <;> simp [InWriteSet, aligned]

theorem witness_RemainderSurvivesSaveAndRestore :
    State.reset.status.busy = false ∧ (hosting { Status.reset with err := true } []).status.busy = false ∧
    (∃ lo, performRead (at' (0x2000 + 8 * 1021)) State.reset = readDone lo State.reset) ∧
    ∃ hi, performRead (at' (0x2000 + 8 * 1021 + 4)) State.reset = readDone hi State.reset :=
  ⟨rfl, rfl, ⟨_, performRead_current (inFlightEntry_of_not_busy rfl _)⟩,
    ⟨_, performRead_current (inFlightEntry_of_not_busy rfl _)⟩⟩

/-- DOMSET changes DOM. -/
theorem witness_DominantBinChangesOnlyByItsWriters :
    ∃ t, step (inFlight 0x080000DB#32 0) = .next t ∧ t.dom ≠ (inFlight 0x080000DB#32 0).dom := by
  refine ⟨nextOf (step (inFlight 0x080000DB#32 0)), ?_, by decide +kernel⟩
  obtain ⟨t, h⟩ := step_next (inFlight 0x080000DB#32 0)
  rw [h]; rfl

/-- A step that changes something, as the step's own next state. -/
theorem step_changes {s : State} {p : State → Prop} (h : p (nextOf (step s))) : ∃ t, step s = .next t ∧ p t := by
  obtain ⟨t, ht⟩ := step_next s
  rw [ht] at h
  exact ⟨t, ht, h⟩

/-- The state `s` with the word `w` due. -/
def due (w : Word) (s : State) : State := s.withFetchWord 32 w.toNat

theorem due_due (w : Word) (s : State) : EngineDue (due w s) := ⟨rfl, rfl, rfl⟩

theorem engine_changes (w : Word) (s : State) {p : State → Prop} (h : p (nextOf (step (due w s)))) :
    ∃ t, step (due w s) = .next t ∧ ¬ Resets (due w s) ∧ p t := by
  obtain ⟨t, h1, h2⟩ := step_changes h
  exact ⟨t, h1, running_not_resets (due_due w s), h2⟩

theorem host_changes (s : State) {o e : HostExpr} {q : List HostOp} {p : State → Prop} (h1 : s.rstHigh = true)
    (h2 : s.env.hostQ = .write o e :: q) (h3 : aligned (o.offset s.env.names) ≠ 0x004) (h : p (nextOf (step s))) :
    ∃ t, step s = .next t ∧ ¬ Resets s ∧ p t := by
  obtain ⟨t, h4, h5⟩ := step_changes h
  exact ⟨t, h4, host_not_resets h1 h2 h3, h5⟩

/-- The magnitudes of a zero block are zero. -/
theorem magBin_zero (k : Nat) : magBin (fun _ => 0) k = 0 := by
  have h : powerBin (fun _ => 0) k = 0 := by simp [powerBin, reBin, imBin, sumTo_eq_sum]
  rw [magBin, h]; rfl

theorem filtered_zero (s : State) (h : s.obuf = Vector.replicate 441 0#16) : s.filtered = fun _ => 0 := by
  funext x; simp only [State.filtered, h, Vector.getElem?_replicate]; split <;> rfl

/-- Each clause: a step that is no reset and changes the memory. -/
theorem witness_MemoriesChangeOnlyByTheirWriters :
    (∃ s t, step s = .next t ∧ ¬ Resets s ∧ t.kactlen ≠ s.kactlen) ∧
    (∃ s t, step s = .next t ∧ ¬ Resets s ∧ t.obuf ≠ s.obuf) ∧
    (∃ s t, step s = .next t ∧ ¬ Resets s ∧ t.spec ≠ s.spec) ∧
    (∃ s t, step s = .next t ∧ ¬ Resets s ∧ t.blkcnt ≠ s.blkcnt) ∧
    (∃ s t, step s = .next t ∧ ¬ Resets s ∧ t.rem ≠ s.rem) ∧
    (∃ s t, step s = .next t ∧ ¬ Resets s ∧ t.kmem ≠ s.kmem) ∧
    (∃ s t, step s = .next t ∧ ¬ Resets s ∧ t.ibuf ≠ s.ibuf) := by
  refine ⟨⟨_, engine_changes 0x01000000#32 { State.reset with klen := 3#16 } (by decide +kernel)⟩,
    ⟨_, engine_changes 0x03000000#32 { kerneled (fun _ => 0x40000000#32) ⟨1, by decide⟩ (fun _ => 5#16) with
        obuf := Vector.replicate 441 0#16 } ?_⟩,
    ⟨_, engine_changes 0x04000000#32 { analysed 0xFFFFFFFF#32 0#64 with obuf := Vector.replicate 441 0#16 } ?_⟩,
    ⟨_, engine_changes 0x05000000#32 (analysed 1#32 0#64) (by decide +kernel)⟩,
    ⟨_, host_changes (hosting Status.reset [wr 0x2000 5]) rfl rfl (by decide) ?_⟩,
    ⟨_, host_changes { hosting Status.reset [wr 0x1FF8 5] with kmem := Vector.replicate 1023 0#32 } rfl rfl
      (by decide) ?_⟩,
    ⟨_, host_changes { hosting Status.reset [wr 0x46E0 5] with ibuf := Vector.replicate 441 0#16 } rfl rfl
      (by decide) ?_⟩⟩
  · intro h
    have := congrArg (fun v : Vector Half 441 => v[0]) h
    revert this; decide +kernel
  · intro h
    have h0 := congrArg (fun v : Vector Word 220 => v[0]) h
    change (tabulate Config.nbins fun k => BitVec.ofNat 32 (magBin _ k))[0] =
      (Vector.replicate 220 0xFFFFFFFF#32)[0] at h0
    rw [filtered_zero _ rfl] at h0
    simp [magBin_zero] at h0
  · intro h
    have := congrArg (fun v : Vector Dword 1022 => v[0]) h
    revert this; decide +kernel
  · intro h
    have := congrArg (fun v : Vector Word 1023 => v[1022]) h
    revert this; decide +kernel
  · intro h
    have := congrArg (fun v : Vector Half 441 => v[440]) h
    revert this; decide +kernel

/-- The steps that set each validity flag, and one with all of them set. -/
theorem witness_ValidityFlagsFallOnlyByReset :
    (∃ s t, step s = .next t ∧ ¬ Resets s ∧ s.status.kvalid = true ∧ s.status.obufv = true ∧
      s.status.specv = true ∧ s.status.domv = true) ∧
    (∃ s t, step s = .next t ∧ ¬ Resets s ∧ s.status.kvalid = false ∧ t.status.kvalid = true) ∧
    (∃ s t, step s = .next t ∧ ¬ Resets s ∧ s.status.obufv = false ∧ t.status.obufv = true) ∧
    (∃ s t, step s = .next t ∧ ¬ Resets s ∧ s.status.specv = false ∧ t.status.specv = true) ∧
    (∃ s t, step s = .next t ∧ ¬ Resets s ∧ s.status.domv = false ∧ t.status.domv = true) := by
  refine ⟨⟨due 0x06000000#32 (analysed 1#32 1#64), _, (step_next _).choose_spec,
      running_not_resets (due_due _ _), rfl, rfl, rfl, rfl⟩,
    ⟨_, engine_changes 0x01000000#32 { State.reset with klen := 3#16 } ⟨rfl, by decide +kernel⟩⟩,
    ⟨_, engine_changes 0x03000000#32 (kerneled (fun _ => 1#32) ⟨1, by decide⟩ (fun _ => 1#16))
      ⟨rfl, by decide +kernel⟩⟩,
    ⟨_, engine_changes 0x04000000#32 (hosting { Status.reset with obufv := true } []) ⟨rfl, by decide +kernel⟩⟩,
    ⟨_, engine_changes 0x08000000#32 State.reset ⟨rfl, by decide +kernel⟩⟩⟩

/-- An accepted write, and an engine step. -/
theorem witness_BusyRisesByAcceptanceAndFallsByTheEngine :
    (∃ s t, step s = .next t ∧ ¬ Resets s ∧ s.status.busy = false ∧ t.status.busy = true) ∧
    (∃ s t, step s = .next t ∧ ¬ Resets s ∧ s.status.busy = true ∧ t.status.busy = false) :=
  ⟨⟨_, host_changes (hosting Status.reset [wr 0x010 0x03000000]) rfl rfl
      (by decide) ⟨rfl, by decide +kernel⟩⟩,
    ⟨_, engine_changes 0x03000000#32 State.reset ⟨rfl, by decide +kernel⟩⟩⟩

theorem witness_InputsOfACommandInFlightAreFixed :
    let s := inFlightHosting 0x03000000#32 1 [wr 0x4000 5]
    s.status.busy = true ∧ ¬ EngineDue s ∧ ¬ Resets s ∧ ∃ t, step s = .next t :=
  ⟨rfl, not_due _ _ _, host_not_resets rfl rfl (by decide), step_next _⟩

theorem witness_ExecIgnoresTheEnvironment : ∃ t, exec .domsel (analysed 1#32 1#64) = .next t := exec_next _ _

theorem witness_AcceptedCommandEnds : (inFlightHosting 0xFFFFFFFF#32 7 [wr 0x004 1]).status.busy = true := rfl

/-- A FILT in flight, two steps from its engine step, while the host clears DONE and ERR and reads. -/
theorem witness_CommandResultIsIndependentOfTheSchedule :
    let s := inFlightHosting 0x03000000#32 2 [wr 0x008 0xFFFFFFFF, .read (.num 0x5000) ['a']]
    s.status.busy = true ∧ s.status.err = false ∧ decode s.cmdLast = .ok .filt ∧ (∀ b ∈ s.env.rstQ, b = true) ∧
    (∀ op ∈ s.env.hostQ, ¬ MaySoftReset op) ∧ ∃ u, exec .filt s = .next u := by
  refine ⟨rfl, rfl, by decide, nofun, ?_, exec_next _ _⟩
  show ∀ op ∈ [wr 0x008 0xFFFFFFFF, .read (.num 0x5000) ['a']], ¬ MaySoftReset op
  simp only [List.forall_mem_cons]
  exact ⟨wr_not_maySoftReset (by decide), nofun, nofun⟩

theorem witness_WaitLoopEnds :
    let s := inFlightHosting 0x03000000#32 2 [.wait, .read (.num 0x5000) ['a']]
    s.env.hostQ = .wait :: [.read (.num 0x5000) ['a']] ∧ ∀ b ∈ s.env.rstQ, b = true := ⟨rfl, nofun⟩

theorem witness_RunLineExecutesTheCommand :
    let s := hosting Status.reset [wr 0x010 0x0800FFFF, .wait]
    s.mode = .idle ∧ Asm.assembleLine "DOMSET 65535".toList = some 0x0800FFFF#32 ∧
    decode 0x0800FFFF#32 = .ok (.domset 65535) ∧
    (HostLine.run "DOMSET 65535".toList).expand = some s.env.hostQ ∧ (∀ b ∈ s.env.rstQ, b = true) ∧
    ∃ u, exec (.domset 65535) { s with
      cmdLast := 0x0800FFFF#32, status := { s.status with busy := true, done := false } } = .next u :=
  ⟨rfl, by decide, by decide +kernel, by decide +kernel, nofun, exec_next _ _⟩

/-- Both windows, at their ends. -/
theorem witness_ReadPairBindsTheWholeEntry :
    (hosting Status.reset []).status.busy = false ∧ (∀ b ∈ (hosting Status.reset []).env.rstQ, b = true) ∧
    (∃ ops, (HostLine.rd64 (.num 0x3FE8) ['a']).expand = some ops ∧
      (hosting Status.reset (ops ++ [.wait])).env.hostQ = ops ++ [.wait]) ∧
    (0x3FE8 : Int) = 0x2000 + 8 * (1021 : Fin 1022).val ∧ (0x86D8 : Int) = 0x8000 + 8 * (219 : Fin 220).val :=
  ⟨rfl, nofun, ⟨_, rfl, rfl⟩, by decide, by decide⟩

theorem witness_AssembledLineDecodesToItsCommand : Asm.assembleLine "DOMSET 219".toList = some 0x080000DB#32 := by
  decide

end Sys2Proof.Tests
end

/-! SUPPORT. Proofs about the registers of 10_state.md: what a bus access to a register does, said once per
register or kind of register, then the statements of that family. -/

namespace Sys2Proof.Proofs

open Sys2Proof Sys2Proof.Machine Sys2Proof.Claims

/-! ### Bus accesses to registers -/

/-- The byte offset of a register (R22 to R38). -/
def regOffset (r : Reg) : Half := BitVec.ofNat 16 (4 * regMap.idxOf r)

theorem aligned_regOffset (r : Reg) : aligned (regOffset r) = 4 * regMap.idxOf r := by
  cases r <;> decide

theorem regMap_idxOf (r : Reg) : regMap[4 * regMap.idxOf r / 4]? = some r := by
  cases r <;> rfl

theorem locOf_regOffset (r : Reg) : locOf (regOffset r) = .reg r :=
  locOf_reg (aligned_regOffset r) (regMap_idxOf r)

theorem performRead_regOffset (r : Reg) (s : State) : performRead (regOffset r) s = readDone (readReg s r) s :=
  performRead_reg s (aligned_regOffset r) (regMap_idxOf r)

theorem performWrite_of_reg {off : Half} {r : Reg} (v : Word) (s : State) (h : locOf off = .reg r) :
    performWrite off v s = writeDone (writeReg r v s) := by
  rw [performWrite, h]; rfl

theorem performWrite_regOffset (r : Reg) (v : Word) (s : State) :
    performWrite (regOffset r) v s = writeDone (writeReg r v s) :=
  performWrite_of_reg v s (locOf_regOffset r)

/-- The word a read returned stands on the bus, so the state it leaves determines it. -/
theorem eq_of_readDone_eq {a b : Word} {s : State} (h : readDone a s = readDone b s) : a = b := by
  have hbus := congrArg (fun t : State => t.env.busOut) h
  simpa [readDone] using hbus

/-! ### Register writes -/

/-- The registers with access code RO (R22, R29, R30, R32 to R34, R38). -/
def readOnlyRegs : List Reg :=
  [.id, .errcode, .errcmd, .kactlen, .dom, .blkcnt, .paramN, .paramKmax, .paramNbins]

theorem writeReg_readOnly {r : Reg} (h : r ∈ readOnlyRegs) (v : Word) (s : State) : writeReg r v s = s := by
  simp only [readOnlyRegs, List.mem_cons, List.not_mem_nil, or_false] at h
  rcases h with rfl | rfl | rfl | rfl | rfl | rfl | rfl | rfl | rfl <;> rfl

/-- A write at the offset of a read-only register leaves the block as it was (R64). -/
theorem performWrite_readOnly {off : Half} (h : off ∈ readOnlyRegs.map regOffset) (v : Word) (s : State) :
    performWrite off v s = writeDone s := by
  obtain ⟨r, hr, rfl⟩ := List.mem_map.mp h
  rw [performWrite_regOffset, writeReg_readOnly hr]

/-- With no command in flight a write reaches a register that drops writes while BUSY (R67). -/
theorem performWrite_store {r : Reg} {v : Word} {s t : State} (hidle : s.status.busy = false)
    (hr : writeReg r v s = whenNotBusy s t) : performWrite (regOffset r) v s = writeDone t := by
  rw [performWrite_regOffset, hr, whenNotBusy_idle hidle]

/-- Two such writes, one after the other. -/
theorem performWrite_store_pair {r r' : Reg} {v v' : Word} {s t u : State} (hidle : s.status.busy = false)
    (hr : writeReg r v s = whenNotBusy s t) (hidle' : t.status.busy = false)
    (hr' : writeReg r' v' (writeDone t) = whenNotBusy (writeDone t) (writeDone u)) :
    performWrite (regOffset r') v' (performWrite (regOffset r) v s) = writeDone u := by
  rw [performWrite_store hidle hr]
  exact performWrite_store (s := writeDone t) (t := writeDone u) hidle' hr'

theorem writeReg_ctrl_clear {v : Word} (h : v.getLsbD 0 = false) (s : State) : writeReg .ctrl v s = s :=
  if_neg (by rw [h]; decide)

theorem writeReg_ctrl_set {v : Word} (h : v.getLsbD 0 = true) (s : State) :
    writeReg .ctrl v s = resetBlock s :=
  if_pos h

theorem mode_eq_idle_iff (s : State) : s.mode = .idle ↔ s.status.busy = false ∧ s.status.err = false := by
  unfold State.mode
  cases s.status.busy <;> cases s.status.err <;> simp

theorem writeReg_cmd_idle {s : State} (h : s.mode = .idle) (w : Word) : writeReg .cmd w s = accept w s :=
  if_pos ((mode_eq_idle_iff s).mp h)

theorem writeReg_cmd_not_idle {s : State} (h : s.mode ≠ .idle) (w : Word) : writeReg .cmd w s = dropWrite s :=
  if_neg fun hidle => h ((mode_eq_idle_iff s).mpr hidle)

theorem accept_mode (w : Word) (s : State) : (accept w s).mode = .busy := rfl

/-- Reset gives every register and flag its reset value, whatever is drawn for the other memories (R50, R243). -/
theorem hasResetValues_atReset (draw : Nat) (e : Env) : (State.atReset draw e).HasResetValues where
  status := rfl
  ie := rfl
  cmdLast := rfl
  errcode := rfl
  errcmd := rfl
  klen := rfl
  kactlen := rfl
  dom := rfl
  blkcnt := rfl
  xin := rfl
  coefficients := ⟨rfl, rfl, rfl, rfl, rfl, rfl⟩
  clshist := rfl
  rem j := by simp [State.atReset]
  acc k := by simp [State.atReset]

theorem hasResetValues_resetBlock (s : State) : (resetBlock s).HasResetValues := hasResetValues_atReset _ _

/-- CTRL (R23): SRST clear has no effect, SRST set resets. -/
theorem performWrite_ctrl {off : Half} (v : Word) (s : State) (h : locOf off = .reg .ctrl) :
    (v.getLsbD 0 = false → performWrite off v s = writeDone s) ∧
    (v.getLsbD 0 = true → ∃ t, performWrite off v s = writeDone t ∧ t.HasResetValues) := by
  rw [performWrite_of_reg v s h]
  exact ⟨fun hclear => by rw [writeReg_ctrl_clear hclear],
    fun hset => ⟨_, by rw [writeReg_ctrl_set hset], hasResetValues_resetBlock s⟩⟩

/-! ### The bits of the STATUS and IE words -/

theorem getLsbD_flagBit (b : Bool) {n : Nat} (hn : n < 32) (i : Nat) :
    (flagBit b n).getLsbD i = (b && decide (n = i)) := by
  cases b <;> simp [flagBit, BitVec.getLsbD_twoPow, hn]

/-- The bits of the IE word (R26). -/
theorem getLsbD_ieWord (e : IntEnable) :
    e.word.getLsbD 0 = e.doneIe ∧ e.word.getLsbD 1 = e.errIe ∧ e.word.getLsbD 2 = e.hazIe ∧
    ∀ n, 3 ≤ n → e.word.getLsbD n = false := by
  refine ⟨?_, ?_, ?_, fun n hn => ?_⟩
  · simp [IntEnable.word, getLsbD_flagBit, -BitVec.getLsbD_eq_getElem]
  · simp [IntEnable.word, getLsbD_flagBit, -BitVec.getLsbD_eq_getElem]
  · simp [IntEnable.word, getLsbD_flagBit, -BitVec.getLsbD_eq_getElem]
  · have : 0 ≠ n ∧ 1 ≠ n ∧ 2 ≠ n := by omega
    simp [IntEnable.word, getLsbD_flagBit, this]

/-- The STATUS bits that have an interrupt enable (R24). -/
theorem getLsbD_statusWord_irqBits (f : Status) :
    f.word.getLsbD 1 = f.done ∧ f.word.getLsbD 2 = f.err ∧ f.word.getLsbD 3 = f.haz := by
  simp [Status.word, getLsbD_flagBit, -BitVec.getLsbD_eq_getElem]

/-- A word whose bits from 3 up are 0 is nonzero exactly when one of its bits 0 to 2 is 1. -/
theorem ne_zero_iff_low_bits {w : Word} (h : ∀ n, 3 ≤ n → w.getLsbD n = false) :
    w ≠ 0#32 ↔ w.getLsbD 0 = true ∨ w.getLsbD 1 = true ∨ w.getLsbD 2 = true := by
  constructor
  · contrapose!
    rintro ⟨h0, h1, h2⟩
    apply BitVec.eq_of_getLsbD_eq
    intro i _
    match i with
    | 0 => simpa using h0
    | 1 => simpa using h1
    | 2 => simpa using h2
    | i + 3 => simpa using h (i + 3) (by omega)
  · rintro hbit rfl
    simp at hbit

/-- Each pending flag stands one bit above its enable (R24, R26), so the shifted STATUS word meets the IE word
in bits 0 to 2 only. -/
theorem irq_iff_words (s : State) : s.irq = true ↔ (s.status.word >>> 1) &&& s.ie.word ≠ 0#32 := by
  obtain ⟨hdone, herr, hhaz⟩ := getLsbD_statusWord_irqBits s.status
  obtain ⟨he0, he1, he2, hhigh⟩ := getLsbD_ieWord s.ie
  have hreserved : ∀ n, 3 ≤ n → ((s.status.word >>> 1) &&& s.ie.word).getLsbD n = false := fun n hn => by
    rw [BitVec.getLsbD_and, hhigh n hn, Bool.and_false]
  rw [ne_zero_iff_low_bits hreserved]
  simp [State.irq, hdone, herr, hhaz, he0, he1, he2, or_assoc, -BitVec.getLsbD_eq_getElem]

/-! ### The comparator's registers -/

/-- A CLS that has a sample decides it (R182, R204). -/
theorem exec_cls {s : State} {src : ClsSrc} {x : Word} (h : clsSample s src = some x) :
    exec (.cls src) s = .next (classify x s) := by
  cases src with
  | xin =>
    cases h
    exact execCls_xin s
  | spec =>
    simp only [clsSample] at h
    split at h
    next hvalid =>
      cases h
      exact execCls_spec hvalid.1 hvalid.2
    next => cases h

/-- The history is shifted up by one and the decision enters at bit 0 (R37, R182). -/
theorem shiftedHistory_eq (hist : Word) (res : Bool) :
    shiftedHistory hist res = (hist <<< 1) ||| (if res then 1#32 else 0#32) := by
  apply BitVec.eq_of_getLsbD_eq
  intro i hi
  cases i with
  | zero =>
    rw [getLsbD_shiftedHistory_zero]
    cases res <;> simp
  | succ n =>
    rw [getLsbD_shiftedHistory_succ hist res n (by omega)]
    cases res <;> simp [hi, BitVec.getLsbD_eq_getElem (show n < 32 by omega)]

/-- With all three coefficients 0 the discriminant is 0, so no sample decides 1 (R36, R181). -/
theorem decides_of_zero_coefficients {s : State} (ha : coefA s = 0) (hb : coefB s = 0) (hc : coefC s = 0)
    (x : Int) : s.decides x = false := by
  have hdisc : s.discriminant x = 0 := by
    change coefA s * x * x + coefB s * x + coefC s = 0
    rw [ha, hb, hc]; ring
  simp [State.decides, hdisc]

/-! ### The statements -/

/-- Settles O34, from what a write to each of the three registers leaves. -/
theorem statusAndEnableWrites : Obligations.StatusAndEnableWrites := by
  intro s off v
  refine ⟨fun h => ?_, fun h => ?_, fun h => ?_⟩
  · exact ⟨performRead_reg s h (r := .ctrl) rfl, performWrite_ctrl v s (locOf_reg h rfl)⟩
  · exact performWrite_of_reg v s (locOf_reg h rfl : locOf off = .reg .status)
  · exact performWrite_of_reg v s (locOf_reg h rfl : locOf off = .reg .ie)

/-- Settles O37: the two reads return the STATUS and IE words, and `irq_iff_words` compares them. -/
theorem irqFollowsStatusAndEnables : Obligations.IrqFollowsStatusAndEnables := by
  intro s f e hf he
  obtain rfl : s.status.word = f := eq_of_readDone_eq ((performRead_regOffset .status s).symm.trans hf)
  obtain rfl : s.ie.word = e := eq_of_readDone_eq ((performRead_regOffset .ie s).symm.trans he)
  exact irq_iff_words s

/-- Settles O39, register by register; a CTRL write is `performWrite_ctrl`. -/
theorem registersReadTheirValues : Obligations.RegistersReadTheirValues := by
  refine ⟨hasResetValues_atReset 0 _, fun s => ?_, fun s v => ?_⟩
  · have herrcode : performRead 0x014#16 s = readDone (BitVec.ofNat 32 s.errcode.code.toNat) s := by
      rw [BitVec.ofNat_toNat]; exact performRead_regOffset .errcode s
    have hklen : performRead 0x01C#16 s = readDone (BitVec.ofNat 32 s.klen.toNat) s := by
      rw [BitVec.ofNat_toNat]; exact performRead_regOffset .klen s
    exact ⟨performRead_regOffset .id s, performRead_regOffset .ctrl s,
      ⟨_, performRead_regOffset .ie s, getLsbD_ieWord s.ie⟩, performRead_regOffset .cmd s, herrcode,
      performRead_regOffset .errcmd s, hklen, performRead_regOffset .kactlen s, performRead_regOffset .dom s,
      performRead_regOffset .blkcnt s, performRead_regOffset .xin s, performRead_regOffset .caLo s,
      performRead_regOffset .caHi s, performRead_regOffset .cbLo s, performRead_regOffset .cbHi s,
      performRead_regOffset .ccLo s, performRead_regOffset .ccHi s, performRead_regOffset .clshist s,
      performRead_regOffset .paramN s, performRead_regOffset .paramKmax s, performRead_regOffset .paramNbins s⟩
  · obtain ⟨hclear, hset⟩ := performWrite_ctrl v s (locOf_regOffset .ctrl)
    have hcmd : performWrite 0x010#16 v s = writeDone (writeReg .cmd v s) := performWrite_regOffset .cmd v s
    refine ⟨fun off hoff => performWrite_readOnly hoff v s, hclear, hset, performWrite_regOffset .ie v s,
      fun hidle => ?_, fun hmode => ?_, fun hbusy => ⟨?_, ?_⟩⟩
    · rw [hcmd, writeReg_cmd_idle hidle]; exact ⟨rfl, accept_mode v s⟩
    · rw [hcmd, writeReg_cmd_not_idle hmode]; rfl
    · rw [BitVec.setWidth_eq_extractLsb' (by decide)]
      exact performWrite_store (r := .klen) hbusy rfl
    · exact performWrite_store (r := .xin) hbusy rfl

/-- Settles O40: each half is a register of its own, and `exec_cls` gives the decision. -/
theorem coefficientsAreWrittenByHalves : Obligations.CoefficientsAreWrittenByHalves := by
  refine ⟨fun s lo hi hidle => ?_, by decide, by decide, by decide, rfl, fun s src x hx => ?_⟩
  · have hpairA : performWrite 0x034#16 hi (performWrite 0x030#16 lo s) =
        writeDone { s with caLo := lo, caHi := hi } :=
      performWrite_store_pair (r := .caLo) (r' := .caHi) (t := { s with caLo := lo }) hidle rfl hidle rfl
    have hpairB : performWrite 0x03C#16 hi (performWrite 0x038#16 lo s) =
        writeDone { s with cbLo := lo, cbHi := hi } :=
      performWrite_store_pair (r := .cbLo) (r' := .cbHi) (t := { s with cbLo := lo }) hidle rfl hidle rfl
    have hpairC : performWrite 0x044#16 hi (performWrite 0x040#16 lo s) =
        writeDone { s with ccLo := lo, ccHi := hi } :=
      performWrite_store_pair (r := .ccLo) (r' := .ccHi) (t := { s with ccLo := lo }) hidle rfl hidle rfl
    exact ⟨performWrite_store (r := .caLo) hidle rfl, performWrite_store (r := .caHi) hidle rfl,
      performWrite_store (r := .cbLo) hidle rfl, performWrite_store (r := .cbHi) hidle rfl,
      performWrite_store (r := .ccLo) hidle rfl, performWrite_store (r := .ccHi) hidle rfl,
      performWrite_store (r := .clshist) hidle rfl,
      by rw [hpairA]; rfl, by rw [hpairB]; rfl, by rw [hpairC]; rfl⟩
  · exact ⟨_, exec_cls hx, shiftedHistory_eq _ _, fun ha hb hc => decides_of_zero_coefficients ha hb hc x.toNat⟩

end Sys2Proof.Proofs

/-! SUPPORT. Proofs about the register window of 20_memory.md: what becomes of a host write at each offset, said
once as a class of offsets and of locations, then the statements of that family. -/

namespace Sys2Proof.Proofs

open Sys2Proof Sys2Proof.Machine Sys2Proof.Claims

/-! ### The three classes of host writes -/

/-- What becomes of a host write (R64, R67): honoured in any mode, dropped with HAZ while BUSY, or ignored in any
mode. -/
inductive WriteClass
  | honoured
  | dropped
  | ignored

/-- The registers whose host writes are dropped while BUSY (R67). -/
def droppedRegs : List Reg := [.cmd, .klen, .xin, .caLo, .caHi, .cbLo, .cbHi, .ccLo, .ccHi, .clshist]

/-- The class of a host write to a register. -/
def regWriteClass (r : Reg) : WriteClass :=
  if r ∈ readOnlyRegs then .ignored else if r ∈ droppedRegs then .dropped else .honoured

/-- The class of a host write to a location. -/
def locWriteClass : Loc → WriteClass
  | .reg r => regWriteClass r
  | .kmem _ => .dropped
  | .rem _ _ => .dropped
  | .ibuf _ => .dropped
  | .obuf _ => .ignored
  | .spec _ => .ignored
  | .acc _ _ => .ignored
  | .unmapped => .ignored

/-- The offsets of each class, as the claims describe them. -/
def InWriteClass (off : Half) : WriteClass → Prop
  | .honoured => aligned off = 0x004 ∨ aligned off = 0x008 ∨ aligned off = 0x00C
  | .dropped => DroppedWhileBusy off
  | .ignored => Unmapped off ∨ ReadOnly off

theorem regWriteClass_eq_ignored_iff (r : Reg) : regWriteClass r = .ignored ↔ r ∈ readOnlyRegs := by
  cases r <;> simp [regWriteClass, readOnlyRegs, droppedRegs]

theorem regWriteClass_eq_dropped_iff (r : Reg) : regWriteClass r = .dropped ↔ r ∈ droppedRegs := by
  cases r <;> simp [regWriteClass, readOnlyRegs, droppedRegs]

/-! ### Offsets and locations agree on the class -/

theorem regMap_getElem?_eq_some {a : Nat} {r : Reg} (h : regMap[a]? = some r) : a = regMap.idxOf r := by
  obtain ⟨ha, rfl⟩ := List.getElem?_eq_some_iff.mp h
  exact ((show regMap.Nodup by decide).idxOf_getElem a ha).symm

theorem aligned_of_at_reg {off : Half} {r : Reg} (h : (Loc.reg r).At (off.toNat / 4)) :
    aligned off = 4 * regMap.idxOf r := by
  rw [aligned, regMap_getElem?_eq_some h, Nat.mul_comm]

/-- Unmapped offsets are those that reach no location (R61). -/
theorem locOf_unmapped {off : Half} (h : Unmapped off) : locOf off = .unmapped := by
  rw [locOf_iff]
  simp only [Unmapped, aligned] at h
  simp only [Loc.At]
  omega

/-- An offset that reaches a register is in the register's class: R22 to R38, register by register. -/
theorem inWriteClass_of_aligned_reg {off : Half} {r : Reg} (h : aligned off = 4 * regMap.idxOf r) :
    InWriteClass off (regWriteClass r) := by
  cases r <;>
    simp [InWriteClass, regWriteClass, readOnlyRegs, droppedRegs, regMap, DroppedWhileBusy, ReadOnly, h]

/-- An offset at which a location stands is in the location's class: the ranges of R61. -/
theorem inWriteClass_of_at {off : Half} {l : Loc} (hat : l.At (off.toNat / 4)) :
    InWriteClass off (locWriteClass l) := by
  obtain ⟨hk, hr, hn, hs⟩ := sizes
  cases l with
  | reg r => exact inWriteClass_of_aligned_reg (aligned_of_at_reg hat)
  | rem i high | acc i high =>
    have hhigh := Bool.toNat_le high
    simp only [Loc.At, locWriteClass, InWriteClass, DroppedWhileBusy, ReadOnly, aligned] at hat ⊢
    omega
  | _ =>
    simp only [Loc.At, locWriteClass, InWriteClass, DroppedWhileBusy, Unmapped, ReadOnly, aligned] at hat ⊢
    omega

/-- Every offset is in the class of the location it reaches (R61, R64, R67). -/
theorem inWriteClass_locOf (off : Half) : InWriteClass off (locWriteClass (locOf off)) :=
  inWriteClass_of_at ((locOf_iff off _).mp rfl)

/-- The ranges of the three classes do not meet. -/
theorem inWriteClass_unique {off : Half} {a b : WriteClass} (ha : InWriteClass off a) (hb : InWriteClass off b) :
    a = b := by
  by_contra hne
  cases a <;> cases b <;>
    simp only [InWriteClass, DroppedWhileBusy, Unmapped, ReadOnly, not_true_eq_false] at ha hb hne <;>
    omega

/-- The class of an offset, in both directions. -/
theorem inWriteClass_iff (off : Half) (c : WriteClass) : InWriteClass off c ↔ locWriteClass (locOf off) = c :=
  ⟨inWriteClass_unique (inWriteClass_locOf off), fun h => h ▸ inWriteClass_locOf off⟩

/-! ### What a write of each class does -/

theorem writeLoc_ignored {l : Loc} (h : locWriteClass l = .ignored) (v : Word) (s : State) : writeLoc l v s = s := by
  cases l with
  | reg r => exact writeReg_readOnly ((regWriteClass_eq_ignored_iff r).mp h) v s
  | kmem _ | rem _ _ | ibuf _ => cases h
  | obuf _ | spec _ | acc _ _ | unmapped => rfl

theorem writeReg_dropped {r : Reg} (h : r ∈ droppedRegs) (v : Word) {s : State} (hbusy : s.status.busy = true) :
    writeReg r v s = dropWrite s := by
  have hmode : s.mode ≠ .idle := fun hidle => by
    obtain ⟨hnot, -⟩ := (mode_eq_idle_iff s).mp hidle
    rw [hbusy] at hnot
    cases hnot
  simp only [droppedRegs, List.mem_cons, List.not_mem_nil, or_false] at h
  rcases h with rfl | rfl | rfl | rfl | rfl | rfl | rfl | rfl | rfl | rfl
  · exact writeReg_cmd_not_idle hmode v
  all_goals exact whenNotBusy_busy hbusy

theorem writeLoc_dropped {l : Loc} (h : locWriteClass l = .dropped) (v : Word) {s : State}
    (hbusy : s.status.busy = true) : writeLoc l v s = dropWrite s := by
  cases l with
  | reg r => exact writeReg_dropped ((regWriteClass_eq_dropped_iff r).mp h) v hbusy
  | kmem _ | rem _ _ | ibuf _ => exact whenNotBusy_busy hbusy
  | obuf _ | spec _ | acc _ _ | unmapped => cases h

/-- A write at an unmapped offset or to a read-only location leaves the block as it was, in any mode (R64). -/
theorem performWrite_ignored {off : Half} (h : Unmapped off ∨ ReadOnly off) (v : Word) (s : State) :
    performWrite off v s = writeDone s := by
  rw [performWrite, writeLoc_ignored ((inWriteClass_iff off .ignored).mp h)]
  rfl

/-- While BUSY a write to another location than CTRL, STATUS and IE that is writable only sets HAZ (R67). -/
theorem performWrite_dropped {off : Half} (h : DroppedWhileBusy off) (v : Word) {s : State}
    (hbusy : s.status.busy = true) :
    performWrite off v s = writeDone { s with status := { s.status with haz := true } } := by
  rw [performWrite, writeLoc_dropped ((inWriteClass_iff off .dropped).mp h) v hbusy]
  rfl

/-- A read at an unmapped offset returns 0 (R64). -/
theorem performRead_unmapped {off : Half} (h : Unmapped off) (s : State) :
    performRead off s = readDone 0#32 s := by
  have hloc := locOf_unmapped h
  rw [performRead_current (by rw [hloc]; exact inFlightEntry_unmapped s), hloc]
  rfl

/-! ### The statements -/

/-- Settles O42: an unmapped offset reaches no location, and its writes are of the ignored class, as are those of
the read-only locations. -/
theorem unmappedAndReadOnlyAccesses : Obligations.UnmappedAndReadOnlyAccesses :=
  fun s _ v => ⟨fun h => performRead_unmapped h s, fun h => performWrite_ignored h v s⟩

/-- Settles O45, by the class of the location the offset reaches. -/
theorem busyDropsHostWrites : Obligations.BusyDropsHostWrites := by
  refine ⟨fun s off v hbusy hctrl hstatus hie => ?_, fun s off v h => performWrite_ignored h v s⟩
  have hclass := inWriteClass_locOf off
  generalize locWriteClass (locOf off) = c at hclass
  cases c with
  | honoured =>
    rcases hclass with h | h | h
    exacts [absurd h hctrl, absurd h hstatus, absurd h hie]
  | dropped => exact .inl ⟨hclass, performWrite_dropped hclass v hbusy⟩
  | ignored =>
    have hnot : ¬ DroppedWhileBusy off := fun hdrop =>
      nomatch inWriteClass_unique (a := .ignored) (b := .dropped) hclass hdrop
    exact .inr ⟨hnot, hclass, performWrite_ignored hclass v s⟩

end Sys2Proof.Proofs

/-! SUPPORT. Proofs about the command words of 30_encoding.md: decoding and encoding are inverse, a row of the
opcode map matches exactly the words of its command, and a malformed word is no command; then the statements of
that family. -/

namespace Sys2Proof.Proofs

open Sys2Proof Sys2Proof.Machine Sys2Proof.Claims Sys2Proof.Laws

/-! ### Decoding and encoding -/

/-- The word of a command whose operand fits its field decodes to that command (R94, R97). -/
theorem decode_encode {i : Instr} (h : i.wellFormed = true) : decode (encode i) = .ok i := by
  have hrsv : rsvField (encode i) = 0x00#8 := rsvField_word _ _ _
  have hop : opField (encode i) = i.op := opField_word _ _ _
  have himm : immField (encode i) = i.imm := immField_word _ _ _
  rw [decode, hrsv, hop, himm]
  cases i with
  | domset bin =>
    have hbin : bin < 2 ^ 16 := of_decide_eq_true h
    simp only [Instr.imm, BitVec.toNat_ofNat, Nat.mod_eq_of_lt hbin]
    rfl
  | cls src => cases src <;> rfl
  | _ => rfl

/-- Only the word of a command decodes to it, so no bit of a legal word is ignored (R91 to R94). -/
theorem encode_of_decode {w : Word} {i : Instr} (h : decode w = .ok i) : encode i = w := by
  obtain ⟨hrsv, hop, himm, -⟩ := decode_cases w i h
  exact word_eq_of_fields hop hrsv himm

/-! ### The rows of the opcode map -/

/-- The fields, the mnemonic and the row of a command agree: `Encoding.Statement`, command by command. -/
theorem encoding_statement (i : Instr) : Encoding.Statement i := by
  cases i with
  | nop => exact Encoding.nop
  | kcommit => exact Encoding.kcommit
  | rclr => exact Encoding.rclr
  | filt => exact Encoding.filt
  | spec => exact Encoding.spec
  | accum => exact Encoding.accum
  | aclr => exact Encoding.aclr
  | domsel => exact Encoding.domsel
  | domset bin => exact Encoding.domset bin
  | cls src => exact Encoding.cls src

theorem exists_row_of_mnemonic (i : Instr) : ∃ r ∈ opcodeTable, r.mnemonic = i.mnemonic := by
  cases i <;> simp [opcodeTable, Instr.mnemonic]

theorem exists_command_of_row :
    ∀ r ∈ opcodeTable, ∃ i : Instr, i.wellFormed = true ∧ i.mnemonic = r.mnemonic := by
  simp only [opcodeTable, List.forall_mem_cons]
  exact ⟨⟨.nop, rfl, rfl⟩, ⟨.kcommit, rfl, rfl⟩, ⟨.rclr, rfl, rfl⟩, ⟨.filt, rfl, rfl⟩, ⟨.spec, rfl, rfl⟩,
    ⟨.accum, rfl, rfl⟩, ⟨.aclr, rfl, rfl⟩, ⟨.domsel, rfl, rfl⟩, ⟨.domset 0, rfl, rfl⟩, ⟨.cls .xin, rfl, rfl⟩, nofun⟩

theorem row_eq_of_mnemonic_eq : ∀ r₁ ∈ opcodeTable, ∀ r₂ ∈ opcodeTable, r₁.mnemonic = r₂.mnemonic → r₁ = r₂ := by
  decide

/-- A row fixes every bit of the word, or it is the row of DOMSET or of CLS (R92, R93). -/
theorem row_cases : ∀ r ∈ opcodeTable, r.mask = BitVec.allOnes 32 ∨
    r = ⟨"DOMSET", 0xFFFF0000#32, 0x08000000#32⟩ ∨ r = ⟨"CLS", 0xFFFFFFFE#32, 0x09000000#32⟩ := by
  decide

/-- Where the mask is all ones, a match fixes the bits of the word. -/
theorem extractLsb'_of_match {w m b : Word} (h : w &&& m = b) {k n : Nat}
    (hm : m.extractLsb' k n = BitVec.allOnes n) : w.extractLsb' k n = b.extractLsb' k n := by
  rw [← h, BitVec.extractLsb'_and, hm, BitVec.and_allOnes]

/-- The DOMSET row fixes OP and RSV, and IMM16 is the bin. -/
theorem exists_encode_domset_of_match {w : Word} (h : w &&& 0xFFFF0000#32 = 0x08000000#32) :
    ∃ bin < 2 ^ 16, encode (.domset bin) = w :=
  ⟨(immField w).toNat, (immField w).isLt,
    word_eq_of_fields (extractLsb'_of_match h rfl) (extractLsb'_of_match h rfl) (by simp [Instr.imm])⟩

/-- The CLS row fixes every bit but bit 0, which is the source. -/
theorem exists_encode_cls_of_match {w : Word} (h : w &&& 0xFFFFFFFE#32 = 0x09000000#32) :
    ∃ src, encode (.cls src) = w := by
  have hop : opField w = 0x09#8 := extractLsb'_of_match h rfl
  have hrsv : rsvField w = 0x00#8 := extractLsb'_of_match h rfl
  have himm : (immField w).extractLsb' 1 15 = 0#15 := by
    have hsub : (immField w).extractLsb' 1 15 = w.extractLsb' 1 15 := by ext; simp [immField]
    exact hsub.trans (extractLsb'_of_match h rfl)
  rcases cls_imm_cases _ himm with h0 | h1
  · exact ⟨.xin, word_eq_of_fields hop hrsv h0⟩
  · exact ⟨.spec, word_eq_of_fields hop hrsv h1⟩

/-- A word that a row matches is the word of a command of the row's mnemonic. -/
theorem exists_encode_of_match {w : Word} {r : OpcodeRow} (hr : r ∈ opcodeTable) (h : w &&& r.mask = r.bits) :
    ∃ i : Instr, i.wellFormed = true ∧ i.mnemonic = r.mnemonic ∧ encode i = w := by
  rcases row_cases r hr with hmask | rfl | rfl
  · obtain ⟨i, hwf, hname⟩ := exists_command_of_row r hr
    obtain ⟨-, -, hrow⟩ := encoding_statement i
    have hbits := hrow r hr hname.symm
    rw [hmask, BitVec.and_allOnes] at h hbits
    exact ⟨i, hwf, hname, hbits.trans h.symm⟩
  · obtain ⟨bin, hbin, henc⟩ := exists_encode_domset_of_match h
    exact ⟨.domset bin, decide_eq_true hbin, rfl, henc⟩
  · obtain ⟨src, henc⟩ := exists_encode_cls_of_match h
    exact ⟨.cls src, rfl, rfl, henc⟩

/-- A row matches exactly the words that decode to a command of its mnemonic (R93). -/
theorem match_iff_decode {w : Word} {r : OpcodeRow} (hr : r ∈ opcodeTable) :
    w &&& r.mask = r.bits ↔ ∃ i, decode w = .ok i ∧ i.mnemonic = r.mnemonic := by
  constructor
  · intro h
    obtain ⟨i, hwf, hname, rfl⟩ := exists_encode_of_match hr h
    exact ⟨i, decode_encode hwf, hname⟩
  · rintro ⟨i, hi, hname⟩
    obtain ⟨-, -, hrow⟩ := encoding_statement i
    rw [← encode_of_decode hi]
    exact hrow r hr hname.symm

/-! ### Malformed words -/

/-- A reserved opcode, a nonzero RSV field, or a nonzero IMM16 bit that must be 0 (R95). -/
def Malformed (w : Word) : Prop :=
  10 ≤ w.toNat / 2 ^ 24 ∨ w.toNat / 2 ^ 16 % 256 ≠ 0 ∨
    (w.toNat / 2 ^ 24 ≤ 7 ∧ w.toNat % 2 ^ 16 ≠ 0) ∨ (w.toNat / 2 ^ 24 = 9 ∧ w.toNat % 2 ^ 16 / 2 ≠ 0)

/-- Only DOMSET has a whole IMM16 for its operand, and CLS has bit 0 of it (R92). -/
theorem op_imm_bounds (i : Instr) :
    i.op.toNat ≤ 9 ∧ (i.op.toNat ≤ 7 → i.imm.toNat = 0) ∧ (i.op.toNat = 9 → i.imm.toNat ≤ 1) := by
  cases i with
  | domset bin => simp [Instr.op]
  | cls src => cases src <;> decide
  | _ => decide

theorem decode_ne_ok_of_malformed {w : Word} (h : Malformed w) (i : Instr) : decode w ≠ .ok i := by
  intro hi
  obtain ⟨hrsv, hop, himm, -⟩ := decode_cases w i hi
  obtain ⟨hreserved, hplain, hcls⟩ := op_imm_bounds i
  rw [← hop, toNat_opField] at hreserved hplain hcls
  rw [← himm, toNat_immField] at hplain hcls
  have hrsv0 : w.toNat / 2 ^ 16 % 256 = 0 := by rw [← toNat_rsvField, hrsv]; rfl
  unfold Malformed at h
  omega

/-- The engine step of a word that is no command is the error entry with ILLEGAL (R94, R115, R202). -/
theorem step_illegal {s : State} (hdue : EngineDue s) (h : ∀ i, decode s.cmdLast ≠ .ok i) :
    step s = .next (erred .illegal (entering s)) := by
  obtain ⟨hrst, hbusy, hwait⟩ := hdue
  obtain ⟨t, ht⟩ := step_next s
  rcases step_cases ht with ⟨hlow, -⟩ | ⟨-, -, -, ⟨i, hi, -⟩ | ⟨-, -, rfl⟩⟩ | ⟨-, hnot, -⟩
  · rw [hrst] at hlow; cases hlow
  · exact absurd hi (h i)
  · exact ht
  · exact absurd ⟨hbusy, hwait⟩ hnot

/-! ### The statements -/

/-- Settles O3: `match_iff_decode`, and each mnemonic has exactly one row. -/
theorem legalWordMatchesExactlyOneRow : Obligations.LegalWordMatchesExactlyOneRow := by
  intro w
  have hname : ∀ i, decode w = .ok i → ∀ r ∈ opcodeTable, w &&& r.mask = r.bits → r.mnemonic = i.mnemonic := by
    intro i hi r hr hmatch
    obtain ⟨j, hj, hjr⟩ := (match_iff_decode hr).mp hmatch
    cases hi.symm.trans hj
    exact hjr.symm
  have hunique : ∀ r₁ ∈ opcodeTable, ∀ r₂ ∈ opcodeTable,
      w &&& r₁.mask = r₁.bits → w &&& r₂.mask = r₂.bits → r₁ = r₂ := by
    intro r₁ hr₁ r₂ hr₂ h₁ h₂
    obtain ⟨i, hi, hir⟩ := (match_iff_decode hr₁).mp h₁
    exact row_eq_of_mnemonic_eq r₁ hr₁ r₂ hr₂ (hir.symm.trans (hname i hi r₂ hr₂ h₂).symm)
  refine ⟨⟨?_, ?_⟩, hunique, hname⟩
  · rintro ⟨i, hi⟩
    obtain ⟨r, hr, hri⟩ := exists_row_of_mnemonic i
    have hmatch := (match_iff_decode hr).mpr ⟨i, hi, hri.symm⟩
    exact ⟨r, ⟨hr, hmatch⟩, fun r' hr' => hunique r' hr'.1 r hr hr'.2 hmatch⟩
  · rintro ⟨r, ⟨hr, hmatch⟩, -⟩
    obtain ⟨i, hi, -⟩ := (match_iff_decode hr).mp hmatch
    exact ⟨i, hi⟩

/-- Settles O5: a malformed word is no command, so its engine step raises ILLEGAL. -/
theorem reservedWordRaisesIllegal : Obligations.ReservedWordRaisesIllegal :=
  ⟨decode_encode (i := .nop) rfl, fun _ hdue hword => step_illegal hdue (decode_ne_ok_of_malformed hword)⟩

/-- Settles O4: the legal words are encodings and the illegal ones are malformed. -/
theorem exampleWordsDecode : Obligations.ExampleWordsDecode := by
  have hmalformed : ∀ w ∈ [0x0A000000#32, 0x03010000#32, 0x03000001#32, 0x09000002#32, 0xFF000000#32],
      Malformed w := by simp [Malformed]
  exact ⟨decode_encode (i := .nop) rfl, decode_encode (i := .kcommit) rfl, decode_encode (i := .rclr) rfl,
    decode_encode (i := .filt) rfl, decode_encode (i := .spec) rfl, decode_encode (i := .accum) rfl,
    decode_encode (i := .aclr) rfl, decode_encode (i := .domsel) rfl, decode_encode (i := .domset 7) rfl,
    decode_encode (i := .domset 219) rfl, decode_encode (i := .cls .xin) rfl, decode_encode (i := .cls .spec) rfl,
    fun w hw => decode_ne_ok_of_malformed (hmalformed w hw)⟩

end Sys2Proof.Proofs

/-! SUPPORT. Proofs about the commands' lifecycle of 40_control.md: what a completion leaves, the first failed check
of an engine step, and what KCOMMIT writes; then the statements of that family. -/

namespace Sys2Proof.Proofs

open Sys2Proof Sys2Proof.Machine Sys2Proof.Claims

/-! ### Completion and error entry -/

/-- What every completion leaves, whichever command completes (R49, R114). -/
structure Completes (s t : State) : Prop where
  busy : t.status.busy = false
  done : t.status.done = true
  err : t.status.err = s.status.err
  errcode : t.errcode = s.errcode
  errcmd : t.errcmd = s.errcmd
  cmdLast : t.cmdLast = s.cmdLast
  haz : t.status.haz = s.status.haz
  env : t.env = s.env

theorem completes_of_effect {i : Instr} {s u : State} (h : Effect i s u) : Completes s (complete u) := by
  obtain ⟨-, hcmdLast, herrcode, herrcmd, -, -, -, -, -, -, -, -, -, -, henv, -, -, herr, hhaz⟩ := h.frame
  exact ⟨rfl, rfl, herr, herrcode, herrcmd, hcmdLast, hhaz, henv⟩

theorem Completes.mode {s t : State} (h : Completes s t) (hs : s.status.err = false) : t.mode = .idle :=
  (mode_eq_idle_iff t).mpr ⟨h.busy, h.err.trans hs⟩

theorem erred_mode (c : ErrCode) (s : State) : (erred c s).mode = .halted := rfl

/-- A command errs with one of the codes 1 to 8 or completes (R114, R202). -/
theorem erred_or_completes {i : Instr} {s t : State} (h : exec i s = .next t) :
    (∃ c, c ≠ .none ∧ c ≠ .numeric ∧ t = erred c s) ∨ Completes s t := by
  rcases exec_inv h with herr | ⟨u, hu, rfl⟩
  · exact .inl herr
  · exact .inr (completes_of_effect hu)

/-! ### The first failed check -/

theorem firstFailed_of_decode_error {s : State} {e : Illegal} (h : decode s.cmdLast = .error e) :
    firstFailed s = some .illegal := by
  rw [firstFailed, h]

/-- The two descriptions of the checks of R204 agree; only the one of BADBIN is turned round. -/
theorem firstFailed_of_decode {s : State} {i : Instr} (h : decode s.cmdLast = .ok i) :
    firstFailed s = failedCheck i s := by
  rw [firstFailed, h]
  cases i with
  | domset bin =>
    by_cases hbin : bin < 220
    · exact (if_neg (by omega)).trans (if_pos hbin).symm
    · exact (if_pos (by omega)).trans (if_neg hbin).symm
  | cls src => cases src <;> rfl
  | _ => rfl

/-- The engine step errs with the first failed check, or with none completes (R112, R115, R204). -/
theorem engineStep_firstFailed (s : State) :
    (∀ c, firstFailed s = some c → engineStep s = .next (erred c s)) ∧
    (firstFailed s = none → ∃ t, engineStep s = .next t ∧ Completes s t) := by
  unfold engineStep
  cases hdecode : decode s.cmdLast with
  | error e =>
    rw [firstFailed_of_decode_error hdecode]
    exact ⟨fun c hc => by cases hc; rfl, nofun⟩
  | ok i =>
    rw [firstFailed_of_decode hdecode]
    obtain ⟨hfail, hpass⟩ := exec_failedCheck i s
    refine ⟨hfail, fun hnone => ?_⟩
    obtain ⟨u, hu, hexec⟩ := hpass hnone
    exact ⟨_, hexec, completes_of_effect hu⟩

/-- A due engine step is the step (R115, R262). -/
theorem step_of_engineDue {s : State} (h : EngineDue s) : step s = engineStep (entering s) := by
  obtain ⟨hrst, hbusy, hwait⟩ := h
  rw [step_eq, if_neg (by simp [hrst]), if_pos ⟨hbusy, hwait⟩]
  rfl

/-- The model's code numbers are those of R201. -/
theorem code_eq_codeNumber (c : ErrCode) : c.code.setWidth 32 = BitVec.ofNat 32 (codeNumber c) := by
  cases c <;> rfl

/-- ERRCODE reads the number of the code it holds (R29, R201). -/
theorem performRead_errcode (s : State) :
    performRead 0x014#16 s = readDone (BitVec.ofNat 32 (codeNumber s.errcode)) s := by
  rw [← code_eq_codeNumber]
  exact performRead_regOffset .errcode s

/-! ### The kernel and the remainder -/

theorem getElem!_clearedRem {j : Nat} (h : j < 1022) : clearedRem[j]! = 0#64 := by
  rw [getElem!_pos clearedRem j h, clearedRem, Vector.getElem_replicate]

/-- The taps below the committed length are the staged ones, the others stay (R117). -/
theorem getElem!_committedKernel (k : Nat) (s : State) {i : Nat} (h : i < 1023) :
    (committedKernel k s)[i]! = if i < k then s.kmem[i]! else s.kact[i]! := by
  rw [committedKernel, getElem!_tabulate _ _ _ h, getD_word, getD_word]

theorem failedCheck_kcommit_of_bad {s : State} (h : BadLength s.klen.toNat) :
    failedCheck .kcommit s = some .badklen :=
  if_pos h

theorem failedCheck_kcommit_of_odd {s : State} (hodd : s.klen.toNat % 2 = 1) (hmax : s.klen.toNat ≤ 1023) :
    failedCheck .kcommit s = none := by
  have hgood : ¬ BadLength s.klen.toNat := by
    obtain ⟨hkmax, -⟩ := sizes
    simp only [BadLength, hkmax]
    omega
  exact if_neg hgood

/-! ### The statements -/

/-- Settles O16: the length check decides, and a commit is the one `Effect` of KCOMMIT. -/
theorem kcommitLatchesTheKernel : Obligations.KcommitLatchesTheKernel := by
  refine ⟨rfl, fun s => ⟨fun hbad => ?_, fun ⟨hodd, hmax⟩ => ?_⟩⟩
  · exact (exec_failedCheck .kcommit s).1 _ (failedCheck_kcommit_of_bad hbad)
  · obtain ⟨u, hu, hexec⟩ := (exec_failedCheck .kcommit s).2 (failedCheck_kcommit_of_odd hodd hmax)
    cases hu
    exact ⟨_, hexec, fun i hi => getElem!_committedKernel _ s hi, rfl, fun j hj => getElem!_clearedRem hj, rfl⟩

/-- Settles O18: the due step is the engine step, which `engineStep_firstFailed` describes. -/
theorem engineReportsTheFirstFailedCheck : Obligations.EngineReportsTheFirstFailedCheck := by
  intro s hdue
  rw [step_of_engineDue hdue]
  obtain ⟨hfail, hpass⟩ := engineStep_firstFailed (entering s)
  have hentering : firstFailed (entering s) = firstFailed s := rfl
  rw [hentering] at hfail hpass
  cases hfirst : firstFailed s with
  | some c =>
    refine ⟨_, hfail c hfirst, fun c' hc' => ?_, nofun⟩
    cases hc'
    exact ⟨rfl, performRead_errcode _⟩
  | none =>
    obtain ⟨t, ht, hcomplete⟩ := hpass hfirst
    exact ⟨t, ht, nofun, fun _ =>
      ⟨hcomplete.err, hcomplete.errcode, hcomplete.errcmd, hcomplete.busy, hcomplete.done⟩⟩

/-- Settles O33: an error entry, or a completion. -/
theorem commandsErrPreciselyOrComplete : Obligations.CommandsErrPreciselyOrComplete := by
  intro i s t hexec
  rcases erred_or_completes hexec with ⟨c, hnone, hnumeric, rfl⟩ | h
  · exact ⟨rfl, rfl, rfl, .inl ⟨c, hnone, hnumeric, rfl, erred_mode c s⟩⟩
  · exact ⟨h.busy, h.done, h.env, .inr ⟨h.err, h.errcode, h.errcmd, h.cmdLast, h.haz, h.mode⟩⟩

/-- Settles O15: the meaning of NOP is `complete`. -/
theorem nopOnlyCompletes : Obligations.NopOnlyCompletes := ⟨rfl, fun _ => rfl⟩

/-- Settles O17: RCLR stores `clearedRem` and completes. -/
theorem rclrClearsTheRemainder : Obligations.RclrClearsTheRemainder :=
  ⟨rfl, fun _ => ⟨_, rfl, fun _ hj => getElem!_clearedRem hj, rfl⟩⟩

/-- Settles O35: the offset reaches CMD, whose write depends on the mode alone. -/
theorem cmdWriteIsAcceptedOnlyWhenIdle : Obligations.CmdWriteIsAcceptedOnlyWhenIdle := by
  intro s off w hoff
  have hcmd : performWrite off w s = writeDone (writeReg .cmd w s) := performWrite_of_reg w s (locOf_reg hoff rfl)
  rw [hcmd]
  refine ⟨fun hidle => ?_, fun hmode => ?_⟩
  · rw [writeReg_cmd_idle hidle]
    exact ⟨_, _, rfl⟩
  · rw [writeReg_cmd_not_idle hmode]
    rfl

end Sys2Proof.Proofs

/-! SUPPORT. Proofs about the filter of 41_fir.md: the linear convolution of a signal cut in two, the state a FILT
leaves, and what a stream of FILTs carries from block to block; then the statements of that family. -/

namespace Sys2Proof.Proofs

open Sys2Proof Sys2Proof.Machine Sys2Proof.Claims

/-! ### The linear convolution -/

theorem lin_eq_sum (h x : Nat → Int) (k n t : Nat) :
    lin h x k n t = ∑ i ∈ Finset.range k, if i ≤ t ∧ t - i < n then h i * x (t - i) else 0 :=
  sumTo_eq_sum _ _

/-- Only the first `n` samples enter. -/
theorem lin_congr {h x y : Nat → Int} {n : Nat} (hxy : ∀ j < n, x j = y j) (k t : Nat) :
    lin h x k n t = lin h y k n t := by
  rw [lin_eq_sum, lin_eq_sum]
  refine Finset.sum_congr rfl fun i _ => if_ctx_congr Iff.rfl (fun hi => ?_) fun _ => rfl
  rw [hxy _ hi.2]

theorem lin_no_samples (h x : Nat → Int) (k t : Nat) : lin h x k 0 t = 0 := by
  simp [lin_eq_sum]

/-- Past the last sample by at least the kernel's length, no sample is met. -/
theorem lin_eq_zero {k t : Nat} (hk : k ≤ t + 1) (h x : Nat → Int) (n : Nat) : lin h x k n (n + t) = 0 := by
  rw [lin_eq_sum]
  refine Finset.sum_eq_zero fun i hi => if_neg ?_
  rw [Finset.mem_range] at hi
  omega

/-- The overlap-add identity: `n + m` samples give what the first `n` leave behind them and what the last `m`, taken
as a block of their own, add. A tap `i ≤ t` meets the last samples, another one the first. -/
theorem lin_add (h x : Nat → Int) (k n m t : Nat) :
    lin h x k (n + m) (n + t) = lin h x k n (n + t) + lin h (fun j => x (n + j)) k m t := by
  simp only [lin_eq_sum]
  rw [← Finset.sum_add_distrib]
  refine Finset.sum_congr rfl fun i _ => ?_
  by_cases hi : i ≤ t
  · have hsub : n + t - i = n + (t - i) := by omega
    have hfirst : ¬ (i ≤ n + t ∧ n + (t - i) < n) := by omega
    have hlast : (i ≤ n + t ∧ n + (t - i) < n + m) ↔ (i ≤ t ∧ t - i < m) := by omega
    rw [hsub, if_neg hfirst, zero_add]
    exact if_congr hlast rfl rfl
  · have hfirst : (i ≤ n + t ∧ n + t - i < n + m) ↔ (i ≤ n + t ∧ n + t - i < n) := by omega
    have hlast : ¬ (i ≤ t ∧ t - i < m) := by omega
    rw [if_neg hlast, add_zero]
    exact if_congr hfirst rfl rfl

/-- R136: fewer than 2^10 products of a tap and a sample. -/
theorem abs_lin_lt {h x : Nat → Int} {k : Nat} (hk : k ≤ 1023) (hh : ∀ i, |h i| ≤ 2 ^ 31)
    (hx : ∀ j, |x j| ≤ 2 ^ 15) (n t : Nat) : |lin h x k n t| < 2 ^ 56 := by
  have hterm : ∀ i < k, |if i ≤ t ∧ t - i < n then h i * x (t - i) else 0| ≤ 2 ^ 46 := by
    intro i _
    split
    · rw [abs_mul]
      exact mul_le_mul (hh i) (hx (t - i)) (abs_nonneg _) (by norm_num)
    · norm_num
  have hsum : |lin h x k n t| ≤ k * 2 ^ 46 := abs_sumTo_le _ k _ hterm
  omega

/-! ### The claims' formulas are the machine's -/

theorem kactlen_le (s : State) : s.kactlen.val ≤ 1023 := Nat.le_of_lt_succ s.kactlen.isLt

theorem abs_tap_le (s : State) (i : Nat) : |s.tap i| ≤ 2 ^ 31 := abs_toInt_word _

theorem convolution_eq_lin (s : State) (t : Nat) :
    convolution s t = lin s.tap s.sample s.kactlen.val 441 t := by
  rw [lin_eq_sum]
  refine Finset.sum_congr rfl fun i _ => if_congr (by omega) ?_ rfl
  rw [State.tap_eq, State.sample_eq]

theorem carried_eq_full (s : State) (t : Nat) : carried s t = s.full t := by
  rw [carried, State.full, convolution_eq_lin, ← State.carry_eq]
  exact congrArg _ (if_congr (by omega) rfl rfl)

theorem rounded_eq (s : State) (t : Nat) : s.rounded t = rounded30 (carried s t) := by
  rw [carried_eq_full]; rfl

theorem sat16_eq_clamp16 (v : Int) : sat16 v = clamp16 v := by
  unfold sat16 clamp16; omega

theorem outOfRange16_iff (v : Int) : outOfRange16 v = true ↔ v < -32768 ∨ 32767 < v := by
  simp [outOfRange16]

/-! ### The state a FILT leaves -/

/-- What a FILT with a kernel leaves (R132). -/
def afterFilt (s : State) : State :=
  complete
    { s with
      obuf := filteredBlock s
      rem := newRemainder s
      status := { s.status with obufv := true, sat := s.status.sat || s.anySaturates } }

theorem exec_filt {s : State} (h : s.status.kvalid = true) : exec .filt s = .next (afterFilt s) := by
  obtain ⟨u, hu, hexec⟩ := (exec_failedCheck .filt s).2 (if_pos h)
  cases hu
  exact hexec

theorem exec_filt_nokernel {s : State} (h : s.status.kvalid = false) :
    exec .filt s = .next (erred .nokernel s) :=
  (exec_failedCheck .filt s).1 _ (if_neg (by simp [h]))

theorem filtered_eq {s : State} (h : s.status.kvalid = true) (b : Vector Half 441) :
    filtered s b = afterFilt { s with ibuf := b } := by
  rw [filtered, exec_filt (s := { s with ibuf := b }) h]

theorem toInt_afterFilt_obuf (s : State) {n : Nat} (hn : n < 441) :
    ((afterFilt s).obuf[n]!).toInt = clamp16 (rounded30 (carried s n)) := by
  have hobuf : (afterFilt s).obuf[n]! = BitVec.ofInt 16 (sat16 (s.rounded n)) := getElem!_tabulate _ _ n hn
  rw [hobuf, toInt_ofInt_sat16, sat16_eq_clamp16, rounded_eq]

theorem afterFilt_rem (s : State) {j : Nat} (hj : j < 1022) :
    (afterFilt s).rem[j]! =
      if j + 1 < s.kactlen.val then BitVec.ofInt 64 (wrap64 (carried s (441 + j))) else s.rem[j]! := by
  have hrem : (afterFilt s).rem[j]! = if j < s.kactlen.val - 1 then BitVec.ofInt 64 (wrap64 (s.full (441 + j)))
      else s.rem[j]?.getD 0#64 := getElem!_tabulate _ _ j hj
  rw [hrem, carried_eq_full, getD_dword]
  exact if_congr (by omega) rfl rfl

/-- A used remainder entry is the wrapped tail (R132). -/
theorem toInt_afterFilt_rem {s : State} {j : Nat} (hj : j + 1 < s.kactlen.val) :
    ((afterFilt s).rem[j]!).toInt = wrap64 (carried s (441 + j)) := by
  have hlen := kactlen_le s
  rw [afterFilt_rem s (by omega), if_pos hj, toInt_ofInt_wrap64]

theorem afterFilt_sat_iff (s : State) : (afterFilt s).status.sat = true ↔ s.status.sat = true ∨
    ∃ n < 441, rounded30 (carried s n) < -32768 ∨ 32767 < rounded30 (carried s n) := by
  have hsat : (afterFilt s).status.sat = (s.status.sat || s.anySaturates) := rfl
  rw [hsat, Bool.or_eq_true, State.anySaturates, anyFrom_iff]
  simp only [outOfRange16_iff, rounded_eq, Nat.zero_le, true_and, Nat.zero_add]

theorem wrap64_modEq (v : Int) : wrap64 v ≡ v [ZMOD 2 ^ 64] := Int.bmod_emod

/-! ### A stream of FILTs -/

theorem signal_block (blocks : Nat → Vector Half 441) (b : Nat) {j : Nat} (hj : j < 441) :
    signal blocks (b * 441 + j) = ((blocks b)[j]!).toInt := by
  have hdiv : (b * 441 + j) / 441 = b := by omega
  have hmod : (b * 441 + j) % 441 = j := by omega
  rw [signal, hdiv, hmod]

theorem abs_signal_le (blocks : Nat → Vector Half 441) (T : Nat) : |signal blocks T| ≤ 2 ^ 15 := abs_toInt_half _

/-- The convolution of the first `n` samples of a stream with the kernel of `s`, at the stream's index `T`. -/
def streamLin (s : State) (blocks : Nat → Vector Half 441) (n T : Nat) : Int :=
  lin s.tap (signal blocks) s.kactlen.val n T

theorem abs_streamLin_lt (s : State) (blocks : Nat → Vector Half 441) (n T : Nat) :
    |streamLin s blocks n T| < 2 ^ 56 :=
  abs_lin_lt (kactlen_le s) (abs_tap_le s) (abs_signal_le blocks) n T

/-- The invariant of R135's induction: after `b` blocks the kernel is that of `s`, and the remainder is what the
samples so far leave behind them. -/
structure Carries (s : State) (blocks : Nat → Vector Half 441) (b : Nat) (u : State) : Prop where
  kvalid : u.status.kvalid = true
  kact : u.kact = s.kact
  kactlen : u.kactlen = s.kactlen
  rem : ∀ j, j + 1 < s.kactlen.val → (u.rem[j]!).toInt = streamLin s blocks (b * 441) (b * 441 + j)

theorem carries_zero {s : State} {blocks : Nat → Vector Half 441} (hvalid : s.status.kvalid = true)
    (hrem : ∀ j, j + 1 < s.kactlen.val → s.rem[j]! = 0#64) : Carries s blocks 0 s where
  kvalid := hvalid
  kact := rfl
  kactlen := rfl
  rem j hj := by rw [hrem j hj, streamLin, Nat.zero_mul, lin_no_samples]; rfl

section
variable {s u : State} {blocks : Nat → Vector Half 441} {b : Nat}

theorem Carries.convolution_eq (h : Carries s blocks b u) (t : Nat) :
    convolution { u with ibuf := blocks b } t =
      lin s.tap (fun j => signal blocks (b * 441 + j)) s.kactlen.val 441 t := by
  have htap : ({ u with ibuf := blocks b } : State).tap = s.tap := by
    funext i; rw [State.tap, State.tap, h.kact]
  rw [convolution_eq_lin, htap, h.kactlen]
  refine lin_congr (fun j hj => ?_) _ _
  rw [State.sample_eq, signal_block blocks b hj]

/-- The carried sum of the next block is the convolution of the signal up to the end of that block (R135). -/
theorem Carries.carried_eq (h : Carries s blocks b u) (t : Nat) :
    carried { u with ibuf := blocks b } t = streamLin s blocks (b * 441 + 441) (b * 441 + t) := by
  have hcarry : (if t + 1 < u.kactlen.val then (u.rem[t]!).toInt else 0) =
      streamLin s blocks (b * 441) (b * 441 + t) := by
    rw [h.kactlen]
    split
    next ht => exact h.rem t ht
    next ht => exact (lin_eq_zero (by omega) _ _ _).symm
  rw [carried, h.convolution_eq, hcarry, streamLin, streamLin, lin_add, add_comm]

theorem Carries.abs_carried_lt (h : Carries s blocks b u) (t : Nat) :
    |carried { u with ibuf := blocks b } t| < 2 ^ 56 := by
  rw [h.carried_eq]; exact abs_streamLin_lt _ _ _ _

/-- The next remainder is stored without wrapping (R136). -/
theorem Carries.toInt_rem_filtered (h : Carries s blocks b u) {j : Nat} (hj : j + 1 < s.kactlen.val) :
    ((filtered u (blocks b)).rem[j]!).toInt = carried { u with ibuf := blocks b } (441 + j) := by
  obtain ⟨hlow, hhigh⟩ := abs_lt.mp (h.abs_carried_lt (441 + j))
  rw [← h.kactlen] at hj
  rw [filtered_eq h.kvalid, toInt_afterFilt_rem (s := { u with ibuf := blocks b }) hj,
    wrap64_of_mem _ (by omega) (by omega)]

theorem Carries.next (h : Carries s blocks b u) : Carries s blocks (b + 1) (filtered u (blocks b)) where
  kvalid := by rw [filtered_eq h.kvalid]; exact h.kvalid
  kact := by rw [filtered_eq h.kvalid]; exact h.kact
  kactlen := by rw [filtered_eq h.kvalid]; exact h.kactlen
  rem j hj := by rw [h.toInt_rem_filtered hj, h.carried_eq, Nat.succ_mul, Nat.add_assoc]

end

theorem carries_stream {s : State} (blocks : Nat → Vector Half 441) (hvalid : s.status.kvalid = true)
    (hrem : ∀ j, j + 1 < s.kactlen.val → s.rem[j]! = 0#64) (b : Nat) :
    Carries s blocks b (stream s blocks b) := by
  induction b with
  | zero => exact carries_zero hvalid hrem
  | succ b ih => exact ih.next

theorem streamLin_eq_sum (s : State) (blocks : Nat → Vector Half 441) {N T : Nat} {p : Nat → Prop} [DecidablePred p]
    (hp : ∀ i, i ≤ T ∧ T - i < N ↔ p i) : streamLin s blocks N T = ∑ i ∈ Finset.range s.kactlen.val,
      if p i then (s.kact[i]!).toInt * signal blocks (T - i) else 0 := by
  rw [streamLin, lin_eq_sum]
  refine Finset.sum_congr rfl fun i _ => if_congr (hp i) ?_ rfl
  rw [State.tap_eq]

/-- Inside the samples so far the convolution is the causal one of the whole signal (R135). -/
theorem streamLin_output (s : State) (blocks : Nat → Vector Half 441) {N T : Nat} (hT : T < N) :
    streamLin s blocks N T = ∑ i ∈ Finset.range s.kactlen.val,
      if i ≤ T then (s.kact[i]!).toInt * signal blocks (T - i) else 0 :=
  streamLin_eq_sum s blocks fun i => by omega

/-- Behind the samples so far only the taps that reach back to them enter (R135). -/
theorem streamLin_tail (s : State) (blocks : Nat → Vector Half 441) (N j : Nat) :
    streamLin s blocks N (N + j) = ∑ i ∈ Finset.range s.kactlen.val,
      if j + 1 ≤ i ∧ i ≤ N + j then (s.kact[i]!).toInt * signal blocks (N + j - i) else 0 :=
  streamLin_eq_sum s blocks fun i => by omega

/-! ### The statements -/

/-- Settles O20: `Carries` holds along the stream, and gives the output and the remainder of the next FILT. -/
theorem streamingEqualsBatchFiltering : Obligations.StreamingEqualsBatchFiltering := by
  intro s blocks b hvalid hrem
  have hb := carries_stream blocks hvalid hrem b
  refine ⟨fun n hn => ?_, fun j hj => ?_⟩
  · rw [stream, filtered_eq hb.kvalid, toInt_afterFilt_obuf _ hn, hb.carried_eq, streamLin_output _ _ (by omega)]
  · rw [stream, hb.next.rem j hj, Nat.succ_mul, streamLin_tail]

/-- Settles O21: every carried sum is a convolution of the signal, so `abs_lin_lt` bounds it. -/
theorem convolutionStaysBelowTwoPow56 : Obligations.ConvolutionStaysBelowTwoPow56 := by
  refine ⟨fun s t => ?_, fun s blocks b hvalid hrem => ?_⟩
  · rw [convolution_eq_lin]
    exact abs_lin_lt (kactlen_le s) (abs_tap_le s) (fun _ => abs_toInt_half _) _ _
  · have hb := carries_stream blocks hvalid hrem b
    refine ⟨hb.abs_carried_lt, fun j hj => ⟨?_, hb.toInt_rem_filtered hj⟩⟩
    rw [hb.rem j hj]
    exact abs_streamLin_lt _ _ _ _

/-- Settles O19: the state FILT leaves is `afterFilt`, read entry by entry. -/
theorem filtFiltersOneBlock : Obligations.FiltFiltersOneBlock := by
  refine ⟨rfl, fun s => ⟨exec_filt_nokernel, fun hvalid => ?_⟩⟩
  refine ⟨afterFilt s, exec_filt hvalid, fun n hn => toInt_afterFilt_obuf s hn, fun j hj => ?_,
    afterFilt_sat_iff s, rfl⟩
  split
  next hused => rw [toInt_afterFilt_rem hused]; exact wrap64_modEq _
  next hunused => rw [afterFilt_rem s hj, if_neg hunused]

end Sys2Proof.Proofs

/-! SUPPORT. Proofs about the spectrum and the dominant bin of 42_spectrum.md: the bounds of the magnitudes, the states
SPEC, ACCUM and DOMSEL leave, what a window of ACCUMs adds up, and who writes DOM; then the statements of that
family. -/

namespace Sys2Proof.Proofs

open Sys2Proof Sys2Proof.Machine Sys2Proof.Claims Sys2Proof.Laws

/-! ### The transform -/

theorem block_eq_filtered (s : State) : block s = s.filtered :=
  funext fun x => (s.filtered_eq x).symm

/-- The claim's real part is the machine's (R153). -/
theorem dftRe_block (s : State) (k : Nat) : dftRe (block s) k = reBin s.filtered k := by
  rw [block_eq_filtered, reBin, sumTo_eq_sum, dftRe]

/-- The claim's imaginary part is the machine's (R153). -/
theorem dftIm_block (s : State) (k : Nat) : dftIm (block s) k = imBin s.filtered k := by
  rw [block_eq_filtered, imBin, sumTo_eq_sum, dftIm]

/-- R155: a filtered sample, a window entry and a rotation factor are at most 2^15 in size, so a sum of 441 of their
products is at most 441·2^45. -/
theorem abs_windowed_sum_le (s : State) {r : Nat → Int} (hr : ∀ x, |r x| ≤ 2 ^ 15) :
    |sumTo (fun x => s.filtered x * romW x * r x) 441| ≤ 441 * 2 ^ 45 := by
  refine abs_sumTo_le _ 441 (2 ^ 45) fun x _ => ?_
  have hsample : |s.filtered x| ≤ 2 ^ 15 := abs_toInt_half _
  have hwindow : |romW x| ≤ 2 ^ 15 := abs_le.mpr ⟨by linarith [(romW_mem x).1], (romW_mem x).2⟩
  calc |s.filtered x * romW x * r x| = |s.filtered x| * |romW x| * |r x| := by rw [abs_mul, abs_mul]
    _ ≤ 2 ^ 15 * 2 ^ 15 * 2 ^ 15 := by gcongr; exact hr x
    _ = 2 ^ 45 := by norm_num

theorem abs_reBin_le (s : State) (k : Nat) : |reBin s.filtered k| ≤ 441 * 2 ^ 45 :=
  abs_windowed_sum_le s fun _ => romC_mem _

theorem abs_imBin_le (s : State) (k : Nat) : |imBin s.filtered k| ≤ 441 * 2 ^ 45 := by
  rw [imBin, abs_neg]
  exact abs_windowed_sum_le s fun _ => romS_mem _

theorem powerBin_le (s : State) (k : Nat) : powerBin s.filtered k ≤ 2 * (441 * 2 ^ 45) ^ 2 := by
  have hre := sq_le_sq' (abs_le.mp (abs_reBin_le s k)).1 (abs_le.mp (abs_reBin_le s k)).2
  have him := sq_le_sq' (abs_le.mp (abs_imBin_le s k)).1 (abs_le.mp (abs_imBin_le s k)).2
  rw [powerBin, ← pow_two, ← pow_two]
  linarith

/-- R155: a magnitude is at most sqrt(2)·441·2^19. -/
theorem magBin_sq_le (s : State) (k : Nat) : magBin s.filtered k ^ 2 ≤ 2 * 441 ^ 2 * 2 ^ 38 := by
  have hpower := powerBin_le s k
  calc magBin s.filtered k ^ 2 ≤ (powerBin s.filtered k).toNat / 2 ^ 52 := by rw [pow_two]; exact (isqrt_spec _).1
    _ ≤ 2 * 441 ^ 2 * 2 ^ 38 := by omega

theorem magBin_lt (s : State) (k : Nat) : magBin s.filtered k < 2 ^ 29 :=
  lt_of_pow_lt_pow_left₀ 2 (by norm_num) ((magBin_sq_le s k).trans_lt (by norm_num))

/-- The claim's formula of a magnitude is the machine's (R153). -/
theorem magBin_eq_sqrt (s : State) (k : Nat) : magBin s.filtered k =
    Nat.sqrt ((dftRe (block s) k ^ 2 + dftIm (block s) k ^ 2).toNat / 2 ^ 52) := by
  rw [magBin, isqrt_eq_sqrt, powerBin, dftRe_block, dftIm_block, pow_two, pow_two]

/-! ### The state a SPEC leaves -/

/-- What a SPEC of a filtered block leaves (R154). -/
def afterSpec (s : State) : State :=
  complete
    { s with
      spec := tabulate Config.nbins fun k => BitVec.ofNat 32 (magBin s.filtered k)
      status := { s.status with specv := true } }

theorem exec_spec {s : State} (h : s.status.obufv = true) : exec .spec s = .next (afterSpec s) := by
  obtain ⟨u, hu, hexec⟩ := (exec_failedCheck .spec s).2 (if_pos h)
  cases hu
  exact hexec

theorem exec_spec_noobuf {s : State} (h : s.status.obufv = false) : exec .spec s = .next (erred .noobuf s) :=
  (exec_failedCheck .spec s).1 _ (if_neg (by simp [h]))

/-- A magnitude fits its entry, so the entry holds it. -/
theorem toNat_afterSpec_spec (s : State) {k : Nat} (hk : k < 220) :
    ((afterSpec s).spec[k]!).toNat = magBin s.filtered k := by
  have hspec : (afterSpec s).spec[k]! = BitVec.ofNat 32 (magBin s.filtered k) := getElem!_tabulate _ _ k hk
  rw [hspec, BitVec.toNat_ofNat, Nat.mod_eq_of_lt ((magBin_lt s k).trans (by norm_num))]

/-! ### The state an ACCUM leaves -/

/-- What an ACCUM of a spectrum leaves (R156). -/
def afterAccum (s : State) : State :=
  complete
    { s with
      acc := tabulate Config.nbins fun k => BitVec.ofNat 64 (satu (s.newBinSum k) 64)
      blkcnt := if s.blkcnt = 0xFFFFFFFF#32 then s.blkcnt else s.blkcnt + 1#32
      status := { s.status with asat := s.status.asat || s.accumSaturates } }

theorem exec_accum {s : State} (h : s.status.specv = true) : exec .accum s = .next (afterAccum s) := by
  obtain ⟨u, hu, hexec⟩ := (exec_failedCheck .accum s).2 (if_pos h)
  cases hu
  exact hexec

theorem exec_accum_nospec {s : State} (h : s.status.specv = false) : exec .accum s = .next (erred .nospec s) :=
  (exec_failedCheck .accum s).1 _ (if_neg (by simp [h]))

theorem accumulated_eq {s : State} (h : s.status.specv = true) (p : Vector Word 220) :
    accumulated s p = afterAccum { s with spec := p } := by
  rw [accumulated, exec_accum (s := { s with spec := p }) h]

theorem newBinSum_eq (s : State) (k : Nat) : s.newBinSum k = (s.acc[k]!).toNat + (s.spec[k]!).toNat := by
  rw [State.newBinSum, State.binSum_eq, getD_word]

theorem toNat_afterAccum_acc (s : State) {k : Nat} (hk : k < 220) :
    ((afterAccum s).acc[k]!).toNat = min (2 ^ 64 - 1) ((s.acc[k]!).toNat + (s.spec[k]!).toNat) := by
  have hacc : (afterAccum s).acc[k]! = BitVec.ofNat 64 (satu (s.newBinSum k) 64) := getElem!_tabulate _ _ k hk
  have hfits : satu (s.newBinSum k) 64 < 2 ^ 64 := by unfold satu; omega
  rw [hacc, BitVec.toNat_ofNat, Nat.mod_eq_of_lt hfits, satu, newBinSum_eq]

theorem eq_allOnes_iff (c : Word) : c = 0xFFFFFFFF#32 ↔ c.toNat = 2 ^ 32 - 1 := by
  rw [← BitVec.toNat_inj]; rfl

theorem toNat_afterAccum_blkcnt (s : State) :
    (afterAccum s).blkcnt.toNat = min (2 ^ 32 - 1) (s.blkcnt.toNat + 1) := by
  have hblkcnt : (afterAccum s).blkcnt = if s.blkcnt = 0xFFFFFFFF#32 then s.blkcnt else s.blkcnt + 1#32 := rfl
  have hlt := s.blkcnt.isLt
  rw [hblkcnt]
  split
  next hfull => rw [eq_allOnes_iff] at hfull; omega
  next hfree => rw [eq_allOnes_iff] at hfree; rw [BitVec.toNat_add, BitVec.toNat_ofNat]; omega

theorem afterAccum_asat_iff (s : State) : (afterAccum s).status.asat = true ↔ s.status.asat = true ∨
    (∃ k < 220, 2 ^ 64 - 1 < (s.acc[k]!).toNat + (s.spec[k]!).toNat) ∨ s.blkcnt.toNat = 2 ^ 32 - 1 := by
  have hasat : (afterAccum s).status.asat = (s.status.asat || s.accumSaturates) := rfl
  rw [hasat, Bool.or_eq_true, State.accumSaturates, Bool.or_eq_true, anyFrom_iff, beq_iff_eq, eq_allOnes_iff]
  simp only [overflows64, decide_eq_true_eq, newBinSum_eq, Nat.zero_le, true_and, Nat.zero_add]

/-! ### The bin DOMSEL selects -/

/-- What a DOMSEL of a window with data leaves (R158). -/
def afterDomsel (s : State) : State :=
  complete { s with dom := s.dominantBin, status := { s.status with domv := true } }

theorem exec_domsel {s : State} (h : s.blkcnt ≠ 0#32) : exec .domsel s = .next (afterDomsel s) := by
  obtain ⟨u, hu, hexec⟩ := (exec_failedCheck .domsel s).2 (if_neg h)
  cases hu
  exact hexec

theorem exec_domsel_nodata {s : State} (h : s.blkcnt = 0#32) : exec .domsel s = .next (erred .nodata s) :=
  (exec_failedCheck .domsel s).1 _ (if_pos h)

theorem binSum_le_dominantBin (s : State) {k : Nat} (hk : k < 220) : s.binSum k ≤ s.binSum s.dominantBin :=
  (argmaxTo_spec s.binSum 219).1 k (by omega)

theorem binSum_lt_dominantBin (s : State) {k : Nat} (hk : k < s.dominantBin.val) :
    s.binSum k < s.binSum s.dominantBin :=
  (argmaxTo_spec s.binSum 219).2 k hk

/-! ### A window of ACCUMs -/

/-- The invariant of R160's induction: after `n` unsaturated ACCUMs each entry is the sum of its magnitudes, and
BLKCNT is the number of blocks. -/
structure Sums (spectra : Nat → Vector Word 220) (n : Nat) (u : State) : Prop where
  specv : u.status.specv = true
  acc : ∀ k < 220, (u.acc[k]!).toNat = windowSum spectra n k
  blkcnt : u.blkcnt.toNat = n

section
variable {s u : State} {spectra : Nat → Vector Word 220} {n : Nat}

theorem sums_zero (hspecv : s.status.specv = true) (hblkcnt : s.blkcnt = 0#32)
    (hacc : ∀ k < 220, s.acc[k]! = 0#64) : Sums spectra 0 s where
  specv := hspecv
  acc k hk := by rw [hacc k hk]; rfl
  blkcnt := by rw [hblkcnt]; rfl

theorem Sums.windowSum_succ (h : Sums spectra n u) {k : Nat} (hk : k < 220) :
    windowSum spectra (n + 1) k = (u.acc[k]!).toNat + ((spectra n)[k]!).toNat := by
  rw [h.acc k hk, windowSum, Finset.sum_range_succ, windowSum]

/-- ASAT is sticky (R156). -/
theorem asat_of_accumulated (hspecv : u.status.specv = true) {p : Vector Word 220}
    (hasat : (accumulated u p).status.asat = false) : u.status.asat = false := by
  rw [accumulated_eq hspecv, ← Bool.not_eq_true, afterAccum_asat_iff] at hasat
  exact (Bool.not_eq_true _).mp fun hset => hasat (.inl hset)

/-- An ACCUM that leaves ASAT 0 saturated neither a sum nor the count. -/
theorem Sums.unsaturated (h : Sums spectra n u) (hasat : (accumulated u (spectra n)).status.asat = false) :
    (∀ k < 220, windowSum spectra (n + 1) k < 2 ^ 64) ∧ n + 1 < 2 ^ 32 := by
  rw [accumulated_eq h.specv, ← Bool.not_eq_true, afterAccum_asat_iff] at hasat
  have hcount : u.blkcnt.toNat ≠ 2 ^ 32 - 1 := fun hfull => hasat (.inr (.inr hfull))
  refine ⟨fun k hk => ?_, ?_⟩
  · by_contra hover
    rw [h.windowSum_succ hk] at hover
    exact hasat (.inr (.inl ⟨k, hk, Nat.lt_of_succ_le (Nat.not_lt.mp hover)⟩))
  · have hlt := u.blkcnt.isLt
    rw [h.blkcnt] at hcount hlt
    omega

theorem Sums.next (h : Sums spectra n u) (hasat : (accumulated u (spectra n)).status.asat = false) :
    Sums spectra (n + 1) (accumulated u (spectra n)) := by
  obtain ⟨hbins, hcount⟩ := h.unsaturated hasat
  rw [accumulated_eq h.specv]
  refine ⟨h.specv, fun k hk => ?_, ?_⟩
  · rw [toNat_afterAccum_acc _ hk, ← h.windowSum_succ hk]
    exact min_eq_right (Nat.le_pred_of_lt (hbins k hk))
  · have hblkcnt : ({ u with spec := spectra n } : State).blkcnt.toNat = n := h.blkcnt
    rw [toNat_afterAccum_blkcnt, hblkcnt]
    omega

theorem specv_window (hspecv : s.status.specv = true) (n : Nat) : (window s spectra n).status.specv = true := by
  induction n with
  | zero => exact hspecv
  | succ n ih => rw [window, accumulated_eq ih]; exact ih

/-- A window that ends with ASAT 0 was unsaturated throughout. -/
theorem sums_window (hspecv : s.status.specv = true) (hblkcnt : s.blkcnt = 0#32)
    (hacc : ∀ k < 220, s.acc[k]! = 0#64) (hasat : (window s spectra n).status.asat = false) :
    Sums spectra n (window s spectra n) := by
  induction n with
  | zero => exact sums_zero hspecv hblkcnt hacc
  | succ n ih => exact (ih (asat_of_accumulated (specv_window hspecv n) hasat)).next hasat

/-- The averages have one positive divisor, so their order is that of the sums (R160). -/
theorem average_le_iff (hn : 0 < n) (j k : Nat) :
    average spectra n j ≤ average spectra n k ↔ windowSum spectra n j ≤ windowSum spectra n k := by
  rw [average, average, div_le_div_iff_of_pos_right (Nat.cast_pos.mpr hn), Nat.cast_le]

theorem average_lt_iff (hn : 0 < n) (j k : Nat) :
    average spectra n j < average spectra n k ↔ windowSum spectra n j < windowSum spectra n k := by
  rw [← not_le, average_le_iff hn, not_le]

end

/-! ### The writers of DOM -/

theorem dom_eq_of_effect {i : Instr} {s u : State} (h : Effect i s u) :
    u.dom = s.dom ∨ i = .domsel ∨ ∃ bin, i = .domset bin := by
  cases h with
  | domsel => exact .inr (.inl rfl)
  | domset bin => exact .inr (.inr ⟨_, rfl⟩)
  | _ => exact .inl rfl

theorem dom_eq_of_exec {i : Instr} {s t : State} (h : exec i s = .next t) :
    t.dom = s.dom ∨ i = .domsel ∨ ∃ bin, i = .domset bin := by
  rcases exec_inv h with ⟨c, -, -, rfl⟩ | ⟨u, hu, rfl⟩
  · exact .inl rfl
  · rw [complete_dom]
    exact dom_eq_of_effect hu

theorem dom_eq_of_hostWrite {l : Loc} {v : Word} {s t : State} (h : HostWrite l v s t) :
    t.dom = s.dom ∨ l = .reg .ctrl ∧ v.getLsbD 0 = true := by
  cases h with
  | reset hset => exact .inr ⟨rfl, by assumption⟩
  | _ => exact .inl rfl

/-- A host write of CTRL with SRST set is a reset (R23, R241). -/
theorem resets_of_write_ctrl {s : State} {o e : HostExpr} {q : List HostOp} (hturn : HostTurn s)
    (hq : s.env.hostQ = .write o e :: q) (hloc : locOf (o.offset s.env.names) = .reg .ctrl)
    (hset : (e.word s.env.names).getLsbD 0 = true) : Resets s :=
  .inr ⟨_, _, ⟨hturn, o, e, q, hq, rfl, rfl⟩, aligned_of_at_reg ((locOf_iff _ _).mp hloc), hset⟩

/-! ### The word of DOMSET -/

/-- The bin is the low half of the word, below the opcode 0x08 and a zero RSV (R91, R93, R159). -/
theorem toNat_encode_domset {bin : Nat} (hbin : bin < 2 ^ 16) : (encode (.domset bin)).toNat = 0x08000000 + bin := by
  obtain ⟨hop, hrsv⟩ := encode_fields (.domset bin)
  have himm : (encode (.domset bin)).toNat % 2 ^ 16 = bin := by
    rw [← toNat_immField, encode, immField_word, Instr.imm, BitVec.toNat_ofNat, Nat.mod_eq_of_lt hbin]
  have hop8 : (Instr.domset bin).op.toNat = 8 := rfl
  omega

/-! ### The statements -/

/-- Settles O22: the state SPEC leaves is `afterSpec`, and no magnitude is cut by its entry. -/
theorem specComputesTheMagnitudes : Obligations.SpecComputesTheMagnitudes :=
  ⟨rfl, fun s => ⟨exec_spec_noobuf, fun hobufv =>
    ⟨afterSpec s, exec_spec hobufv, fun _ hk => (toNat_afterSpec_spec s hk).trans (magBin_eq_sqrt s _), rfl⟩⟩⟩

/-- Settles O25: the state ACCUM leaves is `afterAccum`, read field by field. -/
theorem accumAddsTheSpectrum : Obligations.AccumAddsTheSpectrum :=
  ⟨rfl, fun s => ⟨exec_accum_nospec, fun hspecv =>
    ⟨afterAccum s, exec_accum hspecv, fun _ hk => toNat_afterAccum_acc s hk, toNat_afterAccum_blkcnt s,
      afterAccum_asat_iff s, rfl⟩⟩⟩

/-- Settles O27: the bin is `dominantBin`, which `argmaxTo_spec` describes. -/
theorem domselSelectsTheLowestMaximum : Obligations.DomselSelectsTheLowestMaximum := by
  refine ⟨rfl, fun s => ⟨exec_domsel_nodata, fun hdata => ?_⟩⟩
  refine ⟨s.dominantBin, exec_domsel hdata, fun k => ?_, fun k hk => ?_⟩
  · have hle := binSum_le_dominantBin s k.isLt
    rwa [State.binSum_fin s k, State.binSum_fin] at hle
  · have hlt := binSum_lt_dominantBin s hk
    rwa [State.binSum_fin s k, State.binSum_fin] at hlt

/-- Settles O28: `Sums` holds of the unsaturated window, and the averages are ordered as the sums are. -/
theorem domselMaximisesTheAverage : Obligations.DomselMaximisesTheAverage := by
  intro s spectra n hspecv hblkcnt hacc hn hasat
  have hsums := sums_window hspecv hblkcnt hacc hasat
  have hdata : (window s spectra n).blkcnt ≠ 0#32 := fun hzero => by
    have hcount := hsums.blkcnt
    rw [hzero] at hcount
    exact hn.ne hcount
  have hbin : ∀ k < 220, (window s spectra n).binSum k = windowSum spectra n k := fun k hk => by
    rw [State.binSum_eq, hsums.acc k hk]
  have hdom := hbin _ (window s spectra n).dominantBin.isLt
  refine ⟨hsums.acc, hsums.blkcnt, afterDomsel _, exec_domsel hdata, rfl, fun k hk => ?_, fun k hk => ?_⟩
  · have hle := binSum_le_dominantBin (window s spectra n) hk
    rw [hbin k hk, hdom] at hle
    exact (average_le_iff hn _ _).mpr hle
  · have hlt := binSum_lt_dominantBin (window s spectra n) hk
    rw [hbin k (hk.trans (Fin.isLt _)), hdom] at hlt
    exact (average_lt_iff hn _ _).mpr hlt

/-- Settles O48: a low `rst_n` resets, the engine step changes DOM only for its two commands (`dom_eq_of_exec`), and the
host's step only by a write of CTRL with SRST set (`dom_eq_of_hostWrite`). -/
theorem dominantBinChangesOnlyByItsWriters : Obligations.DominantBinChangesOnlyByItsWriters := by
  intro s t hstep hdom
  rcases step_cases hstep with ⟨hlow, -⟩ | ⟨hhigh, hbusy, hwait, hengine⟩ | ⟨hhigh, hnotDue, rfl⟩
  · exact .inl (.inl hlow)
  · have hdue : EngineDue s := ⟨hhigh, hbusy, hwait⟩
    rcases hengine with ⟨i, hi, hexec⟩ | ⟨-, -, rfl⟩
    · rcases dom_eq_of_exec hexec with heq | rfl | ⟨bin, rfl⟩
      · exact absurd heq hdom
      · exact .inr (.inl ⟨hdue, hi⟩)
      · exact .inr (.inr ⟨bin, hdue, hi⟩)
    · exact absurd rfl hdom
  · have hturn : HostTurn s := ⟨hhigh, fun hdue => hnotDue hdue.2⟩
    rcases hostStep_hostTurn s with ⟨e, -, heq⟩ | ⟨o, e, q, hq, heq⟩
    · rw [heq] at hdom
      exact absurd rfl hdom
    · rw [heq] at hdom
      rcases dom_eq_of_hostWrite (writeLoc_cases _ _ _) with hsame | ⟨hloc, hset⟩
      · exact absurd hsame hdom
      · exact .inl (resets_of_write_ctrl hturn hq hloc hset)

/-- Settles O26: ACLR stores zeros and completes. -/
theorem aclrEmptiesTheWindow : Obligations.AclrEmptiesTheWindow :=
  ⟨rfl, fun s => ⟨_, rfl, fun k hk => by
    rw [complete_acc, getElem!_pos _ k hk, Vector.getElem_replicate], rfl⟩⟩

/-- Settles O29: the range check decides, and a retained bin has the one `Effect` of DOMSET. -/
theorem domsetSetsTheBin : Obligations.DomsetSetsTheBin := by
  refine ⟨fun bin hbin => ?_, fun s => ⟨fun bin => ?_, fun bin hbin => ?_⟩⟩
  · exact toNat_encode_domset hbin
  · obtain ⟨u, hu, hexec⟩ := (exec_failedCheck (.domset bin.val) s).2 (if_pos bin.isLt)
    cases hu
    exact hexec
  · exact (exec_failedCheck (.domset bin) s).1 _ (if_neg (Nat.not_lt.mpr hbin))

end Sys2Proof.Proofs

/-! SUPPORT. Proofs about the comparator of 43_classifier.md: its decision is the sign of the claims' quadratic, the two
refusals of CLS SPEC, and what the midpoint programming decides, then the statements of that family. -/

namespace Sys2Proof.Proofs

open Sys2Proof Sys2Proof.Machine Sys2Proof.Claims

/-! ### The decision -/

/-- The decision is the sign of the claims' quadratic (R181). -/
theorem decides_iff (s : State) (x : Int) :
    s.decides x = true ↔ 0 < coefA s * x ^ 2 + coefB s * x + coefC s := by
  have hdisc : s.discriminant x = coefA s * x ^ 2 + coefB s * x + coefC s := by
    rw [pow_two, ← mul_assoc]
    rfl
  rw [State.decides, decide_eq_true_iff, hdisc, gt_iff_lt]

@[simp] theorem classify_clsres (x : Word) (s : State) : (classify x s).status.clsres = s.decides x.toNat := rfl

@[simp] theorem classify_clshist (x : Word) (s : State) :
    (classify x s).clshist = shiftedHistory s.clshist (s.decides x.toNat) := rfl

/-- Only CLSHIST and the completed STATUS of a decided sample are new (R182). -/
theorem classify_frame (x : Word) (s : State) :
    classify x s = { s with
      clshist := (classify x s).clshist
      status := { s.status with clsres := (classify x s).status.clsres, busy := false, done := true } } := rfl

/-! ### The refusals of CLS SPEC -/

/-- NODOM is checked first, whether there is a spectrum or not (R182, R204). -/
theorem exec_cls_nodom {s : State} (h : s.status.domv = false) : exec (.cls .spec) s = .next (erred .nodom s) :=
  (exec_failedCheck (.cls .spec) s).1 _ (if_neg (by simp [h]))

theorem exec_cls_nospec {s : State} (hdomv : s.status.domv = true) (hspecv : s.status.specv = false) :
    exec (.cls .spec) s = .next (erred .nospec s) :=
  (exec_failedCheck (.cls .spec) s).1 _ ((if_pos hdomv).trans (if_neg (by simp [hspecv])))

/-! ### The midpoint programming -/

/-- With CA = 0, CB = 2 and CC = -(lo + hi) the quadratic is `2 * x - (lo + hi)` (R183). -/
theorem decides_midpoint_iff {s : State} {lo hi : Int} (ha : coefA s = 0) (hb : coefB s = 2)
    (hc : coefC s = -(lo + hi)) (x : Int) : s.decides x = true ↔ lo + hi < 2 * x := by
  rw [decides_iff, ha, hb, hc, zero_mul, zero_add, ← sub_eq_add_neg, sub_pos]

/-- The integer test is that against the midpoint, which need not be an integer. -/
theorem midpoint_lt_iff (lo hi x : Int) : ((lo + hi : Int) : ℚ) / 2 < x ↔ lo + hi < 2 * x := by
  rw [div_lt_iff₀' two_pos]
  norm_cast

/-- A sample nearer the greater mean lies above the midpoint: the squared distances differ by
`(hi - lo) * (2 * x - (lo + hi))`. -/
theorem nearer_hi_iff {lo hi : Int} (h : lo < hi) (x : Int) : |x - hi| < |x - lo| ↔ lo + hi < 2 * x := by
  have hdiff : (x - lo) ^ 2 - (x - hi) ^ 2 = (hi - lo) * (2 * x - (lo + hi)) := by ring
  rw [← sq_lt_sq, ← sub_pos, hdiff, mul_pos_iff_of_pos_left (sub_pos.mpr h), sub_pos]

/-! ### The statements -/

/-- Settles O30: a CLS that has a sample is `classify`, and CLS SPEC without one is refused. -/
theorem clsDecidesByTheQuadratic : Obligations.ClsDecidesByTheQuadratic := by
  refine ⟨rfl, rfl, fun s => ⟨fun src x hx => ?_, exec_cls_nodom, exec_cls_nospec⟩⟩
  refine ⟨classify x s, exec_cls hx, ?_, ?_, fun n hn => ?_, classify_frame x s⟩
  · rw [classify_clsres, decides_iff]
  · rw [classify_clshist, classify_clsres, getLsbD_shiftedHistory_zero]
  · rw [classify_clshist, getLsbD_shiftedHistory_succ _ _ n hn]

/-- Settles O31: the decision is `lo + hi < 2 * x`, and so are both of the claim's comparisons. -/
theorem midpointProgrammingDecidesByTheMidpoint : Obligations.MidpointProgrammingDecidesByTheMidpoint := by
  intro s src x lo hi hx ha hb hc
  have hdecides := decides_midpoint_iff ha hb hc x.toNat
  refine ⟨classify x s, exec_cls hx, ?_, fun hlt => ?_⟩
  · rw [classify_clsres, hdecides]
    exact (midpoint_lt_iff lo hi x.toNat).symm
  · rw [classify_clsres, hdecides, nearer_hi_iff hlt]

end Sys2Proof.Proofs

/-! SUPPORT. Proofs about reset and about reads while a command is in flight, of 70_reset_and_hazards.md: the two
resets leave the same block, and the write set of a command is the same as offsets and as locations; then the
statements of that family. -/

namespace Sys2Proof.Proofs

open Sys2Proof Sys2Proof.Machine Sys2Proof.Claims

/-! ### The two resets -/

/-- While `rst_n` is low the step is a reset, whatever else is pending (R240). -/
theorem step_of_rstLow {s : State} (h : s.rstHigh = false) : step s = .next (resetBlock (beginStep s)) := by
  rw [step_eq, if_pos h]

/-- A step that performs a host write finds the block as it was, with the write taken off the host's list. -/
theorem step_of_hostWrites {s : State} {off : Half} {v : Word} (h : HostWrites s off v) :
    step s = .next (performWrite off v { s with env := { hostTurnEnv s with hostQ := s.env.hostQ.tail } }) := by
  obtain ⟨⟨hrst, hdue⟩, o, e, q, hq, rfl, rfl⟩ := h
  rw [step_host hrst fun hengine => hdue ⟨hrst, hengine⟩, hostStep]
  simp only [hostTurnEnv, hq]
  rfl

/-- A write that sets SRST resets the block, in any mode (R23, R241). -/
theorem performWrite_softReset {off : Half} {v : Word} (h : IsSoftReset off v) (s : State) :
    performWrite off v s = writeDone (resetBlock s) := by
  obtain ⟨hoff, hset⟩ := h
  rw [performWrite_of_reg v s (locOf_reg hoff rfl : locOf off = .reg .ctrl), writeReg_ctrl_set hset]

theorem hasResetValues_writeDone_resetBlock (s : State) : (writeDone (resetBlock s)).HasResetValues :=
  hasResetValues_atReset s.env.drawNo _

/-! ### The regions of the write sets -/

/-- The first `n` entries of REM (R42, R61). -/
theorem rem_range_iff {off : Half} {n : Nat} (hn : n ≤ 1022) :
    0x2000 ≤ aligned off ∧ aligned off < 0x2000 + 8 * n ↔ ∃ j high, locOf off = .rem j high ∧ j.val < n := by
  simp only [locOf_iff, Loc.At, aligned]
  constructor
  · intro h
    refine ⟨⟨(off.toNat / 4 - 0x800) / 2, show _ < 1022 by omega⟩, off.toNat / 4 % 2 == 1, ?_, ?_⟩
    · show off.toNat / 4 = 0x800 + 2 * ((off.toNat / 4 - 0x800) / 2) + _
      rw [toNat_odd]
      omega
    · show (off.toNat / 4 - 0x800) / 2 < n
      omega
  · rintro ⟨j, high, hat, hj⟩
    have hhigh := Bool.toNat_le high
    omega

/-- ACC (R46, R61). -/
theorem acc_range_iff {off : Half} :
    0x8000 ≤ aligned off ∧ aligned off < 0x8000 + 8 * 220 ↔ ∃ k high, locOf off = .acc k high := by
  simp only [locOf_iff, Loc.At, aligned]
  constructor
  · intro h
    refine ⟨⟨(off.toNat / 4 - 0x2000) / 2, show _ < 220 by omega⟩, off.toNat / 4 % 2 == 1, ?_⟩
    show off.toNat / 4 = 0x2000 + 2 * ((off.toNat / 4 - 0x2000) / 2) + _
    rw [toNat_odd]
    omega
  · rintro ⟨k, high, hat⟩
    have hhigh := Bool.toNat_le high
    have hk : k.val < 220 := k.isLt
    omega

/-- OBUF (R44, R61). -/
theorem obuf_range_iff {off : Half} :
    0x5000 ≤ aligned off ∧ aligned off < 0x5000 + 4 * 441 ↔ ∃ i, locOf off = .obuf i := by
  simp only [locOf_iff, Loc.At, aligned]
  constructor
  · intro h
    exact ⟨⟨off.toNat / 4 - 0x1400, show _ < 441 by omega⟩, show _ = 0x1400 + (off.toNat / 4 - 0x1400) by omega⟩
  · rintro ⟨i, hat⟩
    have hi : i.val < 441 := i.isLt
    omega

/-- SPEC (R45, R61). -/
theorem spec_range_iff {off : Half} :
    0x6000 ≤ aligned off ∧ aligned off < 0x6000 + 4 * 220 ↔ ∃ k, locOf off = .spec k := by
  simp only [locOf_iff, Loc.At, aligned]
  constructor
  · intro h
    exact ⟨⟨off.toNat / 4 - 0x1800, show _ < 220 by omega⟩, show _ = 0x1800 + (off.toNat / 4 - 0x1800) by omega⟩
  · rintro ⟨k, hat⟩
    have hk : k.val < 220 := k.isLt
    omega

/-! ### The write set of the command in flight -/

/-- The write sets of R49 by offset and by location agree, command by command. -/
theorem inWriteSet_iff (i : Instr) (s : State) (off : Half) :
    InWriteSet i s off ↔ writesEntry i s (locOf off) = true := by
  have hkernel : s.kactlen.val - 1 ≤ 1022 := Nat.sub_le_of_le_add (kactlen_le s)
  cases i with
  | kcommit | rclr =>
    rw [InWriteSet, rem_range_iff le_rfl]
    cases locOf off <;> simp [writesEntry]
  | filt =>
    rw [InWriteSet, obuf_range_iff, rem_range_iff hkernel]
    cases locOf off <;> simp [writesEntry]
  | spec =>
    rw [InWriteSet, spec_range_iff]
    cases locOf off <;> simp [writesEntry]
  | accum | aclr =>
    rw [InWriteSet, acc_range_iff]
    cases locOf off <;> simp [writesEntry]
  | nop | domsel | domset _ | cls _ => simp [InWriteSet, writesEntry]

/-- With a command in flight, the entries whose reads are unspecified are those of its write set, if it passes its
checks (R49, R251). -/
theorem inFlightEntry_locOf_iff {s : State} (hbusy : s.status.busy = true) (off : Half) :
    inFlightEntry s (locOf off) = true ↔
      firstFailed s = none ∧ ∃ i, decode s.cmdLast = .ok i ∧ InWriteSet i s off := by
  rw [inFlightEntry_iff]
  constructor
  · rintro ⟨-, i, hdecode, hpass, hwrites⟩
    exact ⟨(firstFailed_of_decode hdecode).trans hpass, i, hdecode, (inWriteSet_iff i s off).mpr hwrites⟩
  · rintro ⟨hpass, i, hdecode, hin⟩
    exact ⟨hbusy, i, hdecode, (firstFailed_of_decode hdecode).symm.trans hpass, (inWriteSet_iff i s off).mp hin⟩

/-- A read inside the write set of the command in flight returns a free word, drawn for that read (R251). -/
theorem performRead_inFlight {off : Half} {s : State} (h : inFlightEntry s (locOf off) = true) :
    performRead off s = { readDone (Config.busyWord s.env.drawNo) s with
      env := { (readDone (Config.busyWord s.env.drawNo) s).env with drawNo := s.env.drawNo + 1 } } :=
  if_pos h

/-- A read outside it returns the current value (R66, R251). -/
theorem performRead_of_not_inFlight {off : Half} {s : State} (h : ¬ inFlightEntry s (locOf off) = true) :
    performRead off s = readDone (readLoc s (locOf off)) s :=
  if_neg h

theorem getLsbD_statusWord_busy (f : Status) : f.word.getLsbD 0 = f.busy := by
  simp [Status.word, getLsbD_flagBit, -BitVec.getLsbD_eq_getElem]

/-! ### The statements -/

/-- Settles O14: both steps are resets of the same block, with the same draw for the unspecified memories. -/
theorem softResetEqualsHardReset : Obligations.SoftResetEqualsHardReset := by
  intro s off v hwrites hreset
  refine ⟨_, _, step_of_hostWrites hwrites, step_of_rstLow rfl, ?_⟩
  rw [performWrite_softReset hreset]
  exact ⟨hasResetValues_writeDone_resetBlock _, rfl, rfl, rfl, rfl, rfl⟩

/-- Settles O46: `inFlightEntry_locOf_iff` decides which reads are free. -/
theorem readsWhileBusy : Obligations.ReadsWhileBusy := by
  refine ⟨fun s off hidle => performRead_current (inFlightEntry_of_not_busy hidle _), fun s off hbusy => ?_⟩
  have hentry := inFlightEntry_locOf_iff hbusy off
  refine ⟨fun i hdecode => ⟨fun hpass hin => ?_, fun hout => ?_⟩, fun hfail => ?_, ?_⟩
  · exact performRead_inFlight (hentry.mpr ⟨hpass, i, hdecode, hin⟩)
  · refine performRead_of_not_inFlight fun h => ?_
    obtain ⟨-, j, hj, hin⟩ := hentry.mp h
    obtain rfl : i = j := Except.ok.inj (hdecode.symm.trans hj)
    exact hout hin
  · exact performRead_of_not_inFlight fun h => hfail (hentry.mp h).1
  · obtain ⟨hdone, -⟩ := getLsbD_statusWord_irqBits s.status
    exact ⟨_, performRead_regOffset .status s, (getLsbD_statusWord_busy s.status).trans hbusy,
      fun hinv => hdone.trans (hinv.busyNotDone hbusy)⟩

/-- Settles O9: the reset state is an `atReset` state, and the parameters read constants. -/
theorem resetStateHasTheSpecifiedValues : Obligations.ResetStateHasTheSpecifiedValues :=
  ⟨hasResetValues_atReset 0 _, rfl, rfl, rfl, rfl, rfl, rfl⟩

/-- Settles O13: the step is `resetBlock`, which keeps the host's list and completes no transaction. -/
theorem hardResetOverridesEverything : Obligations.HardResetOverridesEverything :=
  fun _ hrst => ⟨_, step_of_rstLow hrst, hasResetValues_resetBlock _, rfl, rfl, rfl, rfl, rfl⟩

end Sys2Proof.Proofs

/-! SUPPORT. Proofs about one step of the whole machine: the engine step and the host's step one by one, everything a
step that is not a reset can do (`Moves`), and what each of its cases keeps; then the statements about a step. -/

namespace Sys2Proof.Proofs

open Sys2Proof Sys2Proof.Machine Sys2Proof.Claims

/-! ### The engine step and the host's step -/

theorem engineStep_of_decode {s : State} {i : Instr} (h : decode s.cmdLast = .ok i) : engineStep s = exec i s := by
  rw [engineStep, h]

/-- A step that runs a command is the command's meaning (R115). -/
theorem step_of_runs {s : State} {i : Instr} (h : Runs s i) : step s = exec i (entering s) :=
  (step_of_engineDue h.1).trans (engineStep_of_decode h.2)

/-- The host's turn is the host's step on the state as the step finds it (R6, R262). -/
theorem step_of_hostTurn {s : State} (h : HostTurn s) :
    step s = .next (hostStep (hostEntering s.env.hostQ s)) :=
  step_host h.1 fun hdue => h.2 ⟨h.1, hdue⟩

theorem hostTurn_of_idle {s : State} (hrst : s.rstHigh = true) (hidle : s.status.busy = false) : HostTurn s :=
  ⟨hrst, fun hdue => by simp [hdue.2.1] at hidle⟩

theorem hostTurn_of_wait {s : State} (hrst : s.rstHigh = true) (hwait : s.env.engineWait ≠ 0) : HostTurn s :=
  ⟨hrst, fun hdue => hwait hdue.2.2⟩

section
variable {s : State} {q : List HostOp}

theorem step_no_operation (hturn : HostTurn s) (hq : s.env.hostQ = []) : step s = .next (hostEntering [] s) := by
  rw [step_of_hostTurn hturn, hq]
  rfl

theorem step_write (hturn : HostTurn s) {off v : HostExpr} (hq : s.env.hostQ = .write off v :: q) :
    step s = .next (performWrite (off.offset s.env.names) (v.word s.env.names) (hostEntering q s)) := by
  rw [step_of_hostTurn hturn, hq]
  rfl

theorem step_read (hturn : HostTurn s) {off : HostExpr} {n : HostName} (hq : s.env.hostQ = .read off n :: q) :
    step s = .next (readInto (off.offset s.env.names) n (hostEntering q s)) := by
  rw [step_of_hostTurn hturn, hq]
  rfl

theorem step_assign (hturn : HostTurn s) {n : HostName} {v : HostExpr} (hq : s.env.hostQ = .assign n v :: q) :
    step s = .next (named n (v.eval s.env.names) (hostEntering q s)) := by
  rw [step_of_hostTurn hturn, hq]
  rfl

/-- A read of STATUS returns the flags, whatever is in flight (R24, R251). -/
theorem performRead_status (s : State) : performRead statusOffset s = readDone s.status.word s :=
  performRead_regOffset .status s

/-- A `wait` reads STATUS and stays while BUSY is 1 (R98). -/
theorem step_wait (hturn : HostTurn s) (hq : s.env.hostQ = .wait :: q) :
    step s = .next (named ['s'] s.status.word.toNat
      (readDone s.status.word (hostEntering (if s.status.busy then s.env.hostQ else q) s))) := by
  have hread (t : State) : readInto statusOffset waitName t =
      named ['s'] t.status.word.toNat (readDone t.status.word t) := by
    rw [readInto, performRead_status]
    rfl
  rw [step_of_hostTurn hturn, hq]
  cases hbusy : s.status.busy with
  | true =>
    have hstep : hostStep (hostEntering (.wait :: q) s) =
        readInto statusOffset waitName (hostEntering (.wait :: q) s) := by
      simp only [hostStep, hostEntering, hbusy, if_true]
    rw [hstep, hread]
    rfl
  | false =>
    have hstep : hostStep (hostEntering (.wait :: q) s) = readInto statusOffset waitName (hostEntering q s) := by
      simp only [hostStep, hostEntering, hbusy, Bool.false_eq_true, if_false]
      rfl
    rw [hstep, hread]
    rfl

theorem step_waitIrq (hturn : HostTurn s) (hq : s.env.hostQ = .waitIrq :: q) :
    step s = .next (hostEntering (if s.irq then q else s.env.hostQ) s) := by
  have hirq : (hostEntering (.waitIrq :: q) s).irq = s.irq := rfl
  rw [step_of_hostTurn hturn, hq, hostStep]
  simp only [hirq]
  cases s.irq <;> rfl

end

/-! ### Everything a step that is not a reset can do -/

/-- The host's write of `v` to `l` sets SRST (R23). -/
def SoftResets (l : Loc) (v : Word) : Prop := l = .reg .ctrl ∧ v.getLsbD 0 = true

/-- A step that is not a reset completes the command in flight, or raises an error for it, or leaves the block alone,
or performs a host write. -/
inductive Moves (s : State) : State → Prop
  | command {i : Instr} {u : State} (hruns : Runs s i) (hu : Effect i (entering s) u) : Moves s (complete u)
  | error {c : ErrCode} (hdue : EngineDue s) (hnone : c ≠ .none) (hnumeric : c ≠ .numeric) :
    Moves s (erred c (entering s))
  | quiet {e : Env} (hturn : HostTurn s) (he : Quiet (hostTurnEnv s) e) : Moves s { s with env := e }
  | write {off : Half} {v : Word} {l : Loc} {u : State} (hwrites : HostWrites s off v) (hloc : locOf off = l)
    (hsoft : ¬ SoftResets l v) (hu : HostWrite l v (hostEntering s.env.hostQ.tail s) u) : Moves s (writeDone u)

theorem isSoftReset_iff {off : Half} {v : Word} : IsSoftReset off v ↔ SoftResets (locOf off) v :=
  ⟨fun ⟨hoff, hset⟩ => ⟨locOf_reg hoff rfl, hset⟩,
    fun ⟨hloc, hset⟩ => ⟨aligned_of_at_reg ((locOf_iff _ _).mp hloc), hset⟩⟩

theorem moves_of_step {s t : State} (hstep : step s = .next t) (hreset : ¬ Resets s) : Moves s t := by
  rcases step_cases hstep with ⟨hlow, -⟩ | ⟨hhigh, hbusy, hwait, hengine⟩ | ⟨hhigh, hnotDue, rfl⟩
  · exact absurd (.inl hlow) hreset
  · have hdue : EngineDue s := ⟨hhigh, hbusy, hwait⟩
    rcases hengine with ⟨i, hi, hexec⟩ | ⟨-, -, rfl⟩
    · rcases exec_inv hexec with ⟨c, hnone, hnumeric, rfl⟩ | ⟨u, hu, rfl⟩
      · exact .error hdue hnone hnumeric
      · exact .command ⟨hdue, hi⟩ hu
    · exact .error hdue (by decide) (by decide)
  · have hturn : HostTurn s := ⟨hhigh, fun hdue => hnotDue hdue.2⟩
    rcases hostStep_hostTurn s with ⟨e, he, heq⟩ | ⟨o, e, q, hq, heq⟩
    · rw [heq]
      exact .quiet hturn he
    · have hwrites : HostWrites s (o.offset s.env.names) (e.word s.env.names) := ⟨hturn, o, e, q, hq, rfl, rfl⟩
      have htail : s.env.hostQ.tail = q := by rw [hq]; rfl
      rw [heq]
      refine .write hwrites rfl (fun hsoft => hreset (.inr ⟨_, _, hwrites, isSoftReset_iff.mpr hsoft⟩)) ?_
      rw [htail]
      exact writeLoc_cases _ _ _

/-- A reset leaves a reset state with no latency left (R240, R241). -/
theorem step_of_resets {s : State} (h : Resets s) :
    ∃ draw e, e.engineWait = 0 ∧ step s = .next (State.atReset draw e) := by
  rcases h with hlow | ⟨off, v, hwrites, hsoft⟩
  · exact ⟨_, _, rfl, step_of_rstLow hlow⟩
  · have hstep := step_of_hostWrites hwrites
    rw [performWrite_softReset hsoft] at hstep
    exact ⟨s.env.drawNo, _, rfl, hstep⟩

/-! ### What a command and a host write can change -/

/-- The memories a command writes, and BLKCNT and KACTLEN (R49). -/
theorem effect_memories {i : Instr} {s u : State} (h : Effect i s u) :
    (u.kact ≠ s.kact ∨ u.kactlen ≠ s.kactlen → i = .kcommit) ∧ (u.obuf ≠ s.obuf → i = .filt) ∧
    (u.spec ≠ s.spec → i = .spec) ∧ (u.acc ≠ s.acc ∨ u.blkcnt ≠ s.blkcnt → i = .accum ∨ i = .aclr) ∧
    (u.rem ≠ s.rem → i = .filt ∨ i = .kcommit ∨ i = .rclr) := by
  cases h <;> simp

/-- A flag is as it was, or what `p` describes has set it. -/
def Sets (old new : Bool) (p : Prop) : Prop := new = old ∨ new = true ∧ p

theorem Sets.stays {old new : Bool} {p : Prop} (h : Sets old new p) (hold : old = true) : new = true :=
  h.elim (fun hsame => hsame.trans hold) And.left

theorem Sets.rises {old new : Bool} {p : Prop} (h : Sets old new p) (hold : old = false) (hnew : new = true) : p := by
  rcases h with hsame | ⟨-, hp⟩
  · rw [hsame, hold] at hnew
    cases hnew
  · exact hp

theorem Sets.imp {old new : Bool} {p q : Prop} (hpq : p → q) (h : Sets old new p) : Sets old new q :=
  h.imp_right (And.imp_right hpq)

/-- The validity flags a command sets (R24, R49). -/
theorem effect_validity {i : Instr} {s u : State} (h : Effect i s u) :
    Sets s.status.kvalid u.status.kvalid (i = .kcommit) ∧ Sets s.status.obufv u.status.obufv (i = .filt) ∧
    Sets s.status.specv u.status.specv (i = .spec) ∧
    Sets s.status.domv u.status.domv (i = .domsel ∨ ∃ bin, i = .domset bin) := by
  cases h <;> simp [Sets]

section
variable {l : Loc} {v : Word} {s u : State}

/-- A host write reaches no memory but KMEM, REM and IBUF, and those at their own locations (R40 to R46). -/
theorem hostWrite_memories (h : HostWrite l v s u) (hsoft : ¬ SoftResets l v) :
    u.kact = s.kact ∧ u.kactlen = s.kactlen ∧ u.obuf = s.obuf ∧ u.spec = s.spec ∧ u.acc = s.acc ∧
    u.blkcnt = s.blkcnt ∧ (u.rem ≠ s.rem → ∃ j high, l = .rem j high) ∧
    (u.kmem ≠ s.kmem → ∃ i, l = .kmem i) ∧ (u.ibuf ≠ s.ibuf → ∃ i, l = .ibuf i) := by
  cases h with
  | reset _ _ hset => exact absurd ⟨rfl, hset⟩ hsoft
  | _ => simp

/-- A host write leaves the validity flags alone (R24, R25). -/
theorem hostWrite_validity (h : HostWrite l v s u) (hsoft : ¬ SoftResets l v) :
    u.status.kvalid = s.status.kvalid ∧ u.status.obufv = s.status.obufv ∧ u.status.specv = s.status.specv ∧
    u.status.domv = s.status.domv := by
  cases h with
  | reset _ _ hset => exact absurd ⟨rfl, hset⟩ hsoft
  | _ => exact ⟨rfl, rfl, rfl, rfl⟩

/-- A host write is the acceptance of a command in mode IDLE, or leaves CMD_LAST and BUSY alone and can only clear ERR,
in a write of STATUS (R25, R111). -/
theorem hostWrite_control (h : HostWrite l v s u) (hsoft : ¬ SoftResets l v) :
    (l = .reg .cmd ∧ s.mode = .idle ∧ u = accept v s) ∨
    (u.cmdLast = s.cmdLast ∧ u.errcode = s.errcode ∧ u.errcmd = s.errcmd ∧ u.status.busy = s.status.busy ∧
      (u.status.err = s.status.err ∨ l = .reg .status ∧ u.status.err = (s.status.err && !v.getLsbD 2))) := by
  cases h with
  | reset _ _ hset => exact absurd ⟨rfl, hset⟩ hsoft
  | accept _ _ hidle => exact .inl ⟨rfl, (mode_eq_idle_iff s).mpr hidle, rfl⟩
  | status => exact .inr ⟨rfl, rfl, rfl, rfl, .inr ⟨rfl, rfl⟩⟩
  | _ => exact .inr ⟨rfl, rfl, rfl, rfl, .inl rfl⟩

/-- The state `t` has all that a command reads from `s` (R72, R113). -/
def SameInputs (s t : State) : Prop :=
  t = { s with
        status := { s.status with
          done := t.status.done, err := t.status.err, haz := t.status.haz, sat := t.status.sat
          asat := t.status.asat }
        ie := t.ie, env := t.env }

/-- While BUSY a host write changes nothing a command reads (R67, R72). -/
theorem hostWrite_sameInputs (h : HostWrite l v s u) (hsoft : ¬ SoftResets l v) (hbusy : s.status.busy = true) :
    SameInputs s u := by
  have hcontra (hidle : s.status.busy = false) : SameInputs s u := by
    rw [hbusy] at hidle
    cases hidle
  cases h with
  | reset _ _ hset => exact absurd ⟨rfl, hset⟩ hsoft
  | accept _ _ hidle => exact hcontra hidle.1
  | store _ _ _ hidle => exact hcontra hidle
  | kmem _ _ _ hidle => exact hcontra hidle
  | rem _ _ _ _ hidle => exact hcontra hidle
  | ibuf _ _ _ hidle => exact hcontra hidle
  | _ => rfl

end

/-- A validity flag is set by the engine step of its command only, and cleared by no step but a reset (R24). -/
theorem Moves.validity {s t : State} (h : Moves s t) :
    Sets s.status.kvalid t.status.kvalid (Runs s .kcommit) ∧ Sets s.status.obufv t.status.obufv (Runs s .filt) ∧
    Sets s.status.specv t.status.specv (Runs s .spec) ∧
    Sets s.status.domv t.status.domv (Runs s .domsel ∨ ∃ bin, Runs s (.domset bin)) := by
  cases h with
  | command hruns hu =>
    obtain ⟨hkvalid, hobufv, hspecv, hdomv⟩ := effect_validity hu
    refine ⟨hkvalid.imp ?_, hobufv.imp ?_, hspecv.imp ?_, hdomv.imp ?_⟩
    · rintro rfl; exact hruns
    · rintro rfl; exact hruns
    · rintro rfl; exact hruns
    · rintro (rfl | ⟨bin, rfl⟩)
      · exact .inl hruns
      · exact .inr ⟨bin, hruns⟩
  | error | quiet => exact ⟨.inl rfl, .inl rfl, .inl rfl, .inl rfl⟩
  | write _ _ hsoft hu =>
    obtain ⟨hkvalid, hobufv, hspecv, hdomv⟩ := hostWrite_validity hu hsoft
    exact ⟨.inl hkvalid, .inl hobufv, .inl hspecv, .inl hdomv⟩

/-- KMEM (R40, R61). -/
theorem kmem_range_of_locOf {off : Half} {i : Fin Config.kmax} (h : locOf off = .kmem i) :
    0x1000 ≤ aligned off ∧ aligned off < 0x1000 + 4 * 1023 := by
  have hi : i.val < 1023 := i.isLt
  simp only [locOf_iff, Loc.At, aligned] at h ⊢
  omega

/-- IBUF (R43, R61). -/
theorem ibuf_range_of_locOf {off : Half} {i : Fin Config.blockN} (h : locOf off = .ibuf i) :
    0x4000 ≤ aligned off ∧ aligned off < 0x4000 + 4 * 441 := by
  have hi : i.val < 441 := i.isLt
  simp only [locOf_iff, Loc.At, aligned] at h ⊢
  omega

theorem mode_eq_halted_iff (s : State) : s.mode = .halted ↔ s.status.busy = false ∧ s.status.err = true := by
  unfold State.mode
  cases s.status.busy <;> cases s.status.err <;> simp

/-! ### The invariant of the block -/

theorem inv_atReset {draw : Nat} {e : Env} (hwait : e.engineWait = 0) : (State.atReset draw e).Inv where
  busyNotErr := nofun
  busyNotDone := nofun
  errHasCode := nofun
  neverNumeric := nofun
  kernelOdd := nofun
  noKernel _ := rfl
  obufNeedsKernel := nofun
  specNeedsBlock := nofun
  specBounded := nofun
  emptyWindow _ k := by simp [State.atReset]
  noDominant _ := rfl
  waitOnlyBusy _ := hwait

/-- The model's own fields enter the invariant by the latency alone. -/
theorem inv_env {s : State} (h : s.Inv) {e : Env} (hwait : s.status.busy = false → e.engineWait = 0) :
    State.Inv { s with env := e } :=
  { h with waitOnlyBusy := hwait }

theorem inv_entering {s : State} (h : s.Inv) : (entering s).Inv := inv_env h h.waitOnlyBusy

theorem inv_complete {s : State} (h : s.Inv) (hwait : s.env.engineWait = 0) : (complete s).Inv :=
  { h with
    busyNotErr := nofun
    busyNotDone := nofun
    waitOnlyBusy := fun _ => hwait }

theorem inv_erred {s : State} {c : ErrCode} (h : s.Inv) (hnone : c ≠ .none) (hnumeric : c ≠ .numeric)
    (hwait : s.env.engineWait = 0) : (erred c s).Inv :=
  { h with
    busyNotErr := nofun
    busyNotDone := nofun
    errHasCode := fun _ => hnone
    neverNumeric := hnumeric
    waitOnlyBusy := fun _ => hwait }

theorem odd_of_not_badLength {k : Nat} (h : ¬ BadLength k) : k % 2 = 1 := by
  simp only [BadLength, not_or] at h
  omega

/-- BLKCNT does not wrap, so a window with a block is not empty (R156). -/
theorem afterAccum_blkcnt_ne_zero (s : State) : (afterAccum s).blkcnt ≠ 0#32 := fun hzero => by
  have hcount := toNat_afterAccum_blkcnt s
  rw [hzero, BitVec.toNat_ofNat] at hcount
  omega

theorem inv_effect {i : Instr} {s u : State} (h : s.Inv) (hu : Effect i s u) : u.Inv := by
  cases hu with
  | nop => exact h
  | kcommit _ hgood =>
    exact { h with
      kernelOdd := fun _ => odd_of_not_badLength hgood
      noKernel := nofun
      obufNeedsKernel := fun _ => rfl }
  | rclr => exact { h with }
  | filt _ hkvalid =>
    exact { h with
      obufNeedsKernel := fun _ => hkvalid
      specNeedsBlock := fun _ => rfl }
  | spec _ hobufv =>
    exact { h with
      specNeedsBlock := fun _ => hobufv
      specBounded := fun _ k => by
        have hmag := toNat_afterSpec_spec s k.isLt
        rw [getElem!_pos (afterSpec s).spec k.val k.isLt] at hmag
        exact (hmag.trans_lt (magBin_lt s k.val)).trans (by norm_num) }
  | accum => exact { h with emptyWindow := fun hzero => absurd hzero (afterAccum_blkcnt_ne_zero s) }
  | aclr => exact { h with emptyWindow := fun _ k => by simp }
  | domsel => exact { h with noDominant := nofun }
  | domset => exact { h with noDominant := nofun }
  | cls => exact { h with }

theorem inv_hostWrite {l : Loc} {v : Word} {s u : State} (h : s.Inv) (hsoft : ¬ SoftResets l v)
    (hu : HostWrite l v s u) : u.Inv := by
  cases hu with
  | reset _ _ hset => exact absurd ⟨rfl, hset⟩ hsoft
  | status =>
    exact { h with
      busyNotErr := fun hbusy => by simp [Status.w1c, h.busyNotErr hbusy]
      busyNotDone := fun hbusy => by simp [Status.w1c, h.busyNotDone hbusy]
      errHasCode := fun herr => h.errHasCode (Bool.and_elim_left herr) }
  | accept _ _ hidle =>
    exact { h with
      busyNotErr := fun _ => hidle.2
      busyNotDone := fun _ => rfl
      waitOnlyBusy := nofun }
  | _ => exact { h with }

theorem inv_hostEntering {s : State} (h : s.Inv) (q : List HostOp) : (hostEntering q s).Inv :=
  inv_env h fun hidle => by simp [hidle, h.waitOnlyBusy hidle]

theorem inv_moves {s t : State} (h : s.Inv) (hmoves : Moves s t) : t.Inv := by
  cases hmoves with
  | command hruns hu =>
    obtain ⟨-, -, -, -, -, -, -, -, -, -, -, -, -, -, henv, -⟩ := hu.frame
    exact inv_complete (inv_effect (inv_entering h) hu) (by rw [henv]; exact hruns.1.2.2)
  | error hdue hnone hnumeric => exact inv_erred (inv_entering h) hnone hnumeric hdue.2.2
  | quiet _ he =>
    exact inv_env h fun hidle => he.1.trans ((inv_hostEntering h []).waitOnlyBusy hidle)
  | write _ _ hsoft hu =>
    have hinv := inv_hostWrite (inv_hostEntering h _) hsoft hu
    exact inv_env hinv hinv.waitOnlyBusy

/-! ### The statements -/

/-- Settles O12: a reset leaves a reset state, and each other case of a step keeps the invariant (`inv_moves`). -/
theorem everyStepKeepsTheInvariant : Obligations.EveryStepKeepsTheInvariant := by
  intro s t hinv hstep
  by_cases hreset : Resets s
  · obtain ⟨draw, e, hwait, heq⟩ := step_of_resets hreset
    cases heq.symm.trans hstep
    exact inv_atReset hwait
  · exact inv_moves hinv (moves_of_step hstep hreset)

/-- Settles O11: the reset state is an `atReset` state. -/
theorem invariantHoldsAtReset : Obligations.InvariantHoldsAtReset := inv_atReset rfl

/-- Settles O6: a due engine step is the meaning of the decoded command (`step_of_runs`). -/
theorem stepRunsTheDecodedCommand : Obligations.StepRunsTheDecodedCommand := fun _ _ => step_of_runs

/-- Settles O7, one kind of operation at a time. -/
theorem hostStepPerformsTheNextOperation : Obligations.HostStepPerformsTheNextOperation := by
  refine ⟨fun s hturn => ⟨step_no_operation hturn, fun off v q => step_write hturn, fun off n q hq => ?_,
    fun n v q => step_assign hturn, fun q hq => ?_, fun q => step_waitIrq hturn⟩,
    fun n m v names => lookupName_bindName n m v names⟩
  · obtain ⟨w, hw⟩ := performRead_busOut (off.offset s.env.names) (hostEntering q s)
    exact ⟨w, hw, by rw [step_read hturn hq, readInto_word hw]; rfl⟩
  · exact ⟨_, performRead_status s, getLsbD_statusWord_busy s.status, step_wait hturn hq⟩

/-- Settles O8: each case of `step` answers a next state, as the law `step_next` says. -/
theorem everyStepAnswersANextState : Obligations.EveryStepAnswersANextState := step_next

/-- Settles O10: the step is `resetBlock`, which tabulates the five memories from the draw. -/
theorem eachResetDrawsTheUnspecifiedMemories : Obligations.EachResetDrawsTheUnspecifiedMemories := fun _ hrst =>
  ⟨_, step_of_rstLow hrst, rfl,
    fun i => ⟨getElem_tabulate _ _ i.val i.isLt, getElem_tabulate _ _ i.val i.isLt⟩,
    fun i => ⟨getElem_tabulate _ _ i.val i.isLt, getElem_tabulate _ _ i.val i.isLt⟩,
    fun k => getElem_tabulate _ _ k.val k.isLt⟩

/-- Settles O36: a HALTED block has no engine step, and a host write that changes ERR is one of STATUS. -/
theorem haltedIsLeftOnlyByTheHost : Obligations.HaltedIsLeftOnlyByTheHost := by
  intro s t hmode hstep hreset
  obtain ⟨hidle, herr⟩ := (mode_eq_halted_iff s).mp hmode
  have hnotDue : ¬ EngineDue s := fun hdue => by simp [hdue.2.1] at hidle
  cases moves_of_step hstep hreset with
  | command hruns => exact absurd hruns.1 hnotDue
  | error hdue => exact absurd hdue hnotDue
  | quiet => exact ⟨rfl, rfl, rfl, .inl hmode⟩
  | @write off v l u hwrites hloc hsoft hu =>
    rcases hostWrite_control hu hsoft with ⟨-, hmode', -⟩ | ⟨hcmdLast, herrcode, herrcmd, hbusy, herr'⟩
    · cases hmode.symm.trans hmode'
    · refine ⟨hcmdLast, herrcode, herrcmd, ?_⟩
      rcases herr' with hsame | ⟨rfl, hclear⟩
      · exact .inl ((mode_eq_halted_iff u).mpr ⟨hbusy.trans hidle, hsame.trans herr⟩)
      · have herr : (hostEntering s.env.hostQ.tail s).status.err = true := herr
        rw [herr, Bool.true_and] at hclear
        cases hv : v.getLsbD 2 with
        | false => exact .inl ((mode_eq_halted_iff u).mpr ⟨hbusy.trans hidle, by rw [hclear, hv]; rfl⟩)
        | true =>
          exact .inr ⟨(mode_eq_idle_iff u).mpr ⟨hbusy.trans hidle, by rw [hclear, hv]; rfl⟩, off, v, hwrites,
            aligned_of_at_reg ((locOf_iff _ _).mp hloc), hv⟩

/-- Settles O49: the writers of each memory among commands (`effect_memories`) and host writes
(`hostWrite_memories`). -/
theorem memoriesChangeOnlyByTheirWriters : Obligations.MemoriesChangeOnlyByTheirWriters := by
  intro s t hstep hreset
  cases moves_of_step hstep hreset with
  | @command i u hruns hu =>
    obtain ⟨hkernel, hobuf, hspec, hsums, hrem⟩ := effect_memories hu
    obtain ⟨-, -, -, -, -, -, -, -, -, -, -, -, hkmem, hibuf, -⟩ := hu.frame
    refine ⟨fun h => hkernel h ▸ hruns, fun h => hobuf h ▸ hruns, fun h => hspec h ▸ hruns, fun h => ?_,
      fun h => ?_, absurd hkmem, absurd hibuf⟩
    · rcases hsums h with rfl | rfl
      · exact .inl hruns
      · exact .inr hruns
    · rcases hrem h with rfl | rfl | rfl
      · exact .inl hruns
      · exact .inr (.inl hruns)
      · exact .inr (.inr (.inl hruns))
  | error => simp [erred, entering]
  | quiet => simp
  | @write off v l u hwrites hloc hsoft hu =>
    obtain ⟨hkact, hkactlen, hobuf, hspec, hacc, hblkcnt, hrem, hkmem, hibuf⟩ := hostWrite_memories hu hsoft
    refine ⟨fun h => h.elim (absurd hkact) (absurd hkactlen), absurd hobuf, absurd hspec,
      fun h => h.elim (absurd hacc) (absurd hblkcnt), fun h => ?_, fun h => ?_, fun h => ?_⟩
    · obtain ⟨j, high, rfl⟩ := hrem h
      exact .inr (.inr (.inr ⟨off, v, hwrites, (rem_range_iff le_rfl).mpr ⟨j, high, hloc, j.isLt⟩⟩))
    · obtain ⟨i, rfl⟩ := hkmem h
      exact ⟨off, v, hwrites, kmem_range_of_locOf hloc⟩
    · obtain ⟨i, rfl⟩ := hibuf h
      exact ⟨off, v, hwrites, ibuf_range_of_locOf hloc⟩

/-- Settles O50: `effect_validity` says which command sets a flag, and nothing else touches one. -/
theorem validityFlagsFallOnlyByReset : Obligations.ValidityFlagsFallOnlyByReset := by
  intro s t hstep hreset
  obtain ⟨hkvalid, hobufv, hspecv, hdomv⟩ := (moves_of_step hstep hreset).validity
  exact ⟨hkvalid.stays, hobufv.stays, hspecv.stays, hdomv.stays, hkvalid.rises, hobufv.rises, hspecv.rises,
    hdomv.rises⟩

/-- Settles O51: BUSY rises by `accept` alone, and the engine step clears it. -/
theorem busyRisesByAcceptanceAndFallsByTheEngine : Obligations.BusyRisesByAcceptanceAndFallsByTheEngine := by
  intro s t hstep hreset
  cases moves_of_step hstep hreset with
  | command hruns => exact ⟨fun _ => nofun, fun _ _ => ⟨hruns.1, rfl⟩⟩
  | error hdue => exact ⟨fun _ => nofun, fun _ _ => ⟨hdue, rfl⟩⟩
  | quiet =>
    exact ⟨fun hidle hbusy => (nomatch hidle.symm.trans hbusy), fun hbusy hidle => (nomatch hidle.symm.trans hbusy)⟩
  | @write off v l u hwrites hloc hsoft hu =>
    rcases hostWrite_control hu hsoft with ⟨rfl, hmode, rfl⟩ | ⟨-, -, -, hsame, -⟩
    · exact ⟨fun _ _ => ⟨hmode, off, hwrites, aligned_of_at_reg ((locOf_iff _ _).mp hloc)⟩, fun _ => nofun⟩
    · exact ⟨fun hidle hbusy => (nomatch (hsame.trans hidle).symm.trans hbusy),
        fun hbusy hidle => (nomatch hidle.symm.trans (hsame.trans hbusy))⟩

/-- Settles O52: with the engine step and the resets excluded, `hostWrite_sameInputs` is all there is. -/
theorem inputsOfACommandInFlightAreFixed : Obligations.InputsOfACommandInFlightAreFixed := by
  intro s t hbusy hnotDue hreset hstep
  cases moves_of_step hstep hreset with
  | command hruns => exact absurd hruns.1 hnotDue
  | error hdue => exact absurd hdue hnotDue
  | quiet => rfl
  | write _ _ hsoft hu => exact congrArg writeDone (hostWrite_sameInputs hu hsoft hbusy)

end Sys2Proof.Proofs

/-! SUPPORT. Proofs about bus accesses to the memories of 20_memory.md with no command in flight: which offset reaches
which entry, the two words of a 64-bit entry, and the STATUS word; then the statements about them. -/

namespace Sys2Proof.Proofs

open Sys2Proof Sys2Proof.Machine Sys2Proof.Claims

/-! ### The offset of each entry (R61) -/

theorem locOf_kmem {i : Nat} (h : i < 1023) : locOf (at' (0x1000 + 4 * i)) = .kmem ⟨i, h⟩ :=
  locOf_ofNat (by omega) (show (0x1000 + 4 * i) / 4 = 0x400 + i by omega)

theorem locOf_rem_low {j : Nat} (h : j < 1022) : locOf (at' (0x2000 + 8 * j)) = .rem ⟨j, h⟩ false :=
  locOf_ofNat (by omega) (show (0x2000 + 8 * j) / 4 = 0x800 + 2 * j + 0 by omega)

theorem locOf_rem_high {j : Nat} (h : j < 1022) : locOf (at' (0x2000 + 8 * j + 4)) = .rem ⟨j, h⟩ true :=
  locOf_ofNat (by omega) (show (0x2000 + 8 * j + 4) / 4 = 0x800 + 2 * j + 1 by omega)

theorem locOf_ibuf {i : Nat} (h : i < 441) : locOf (at' (0x4000 + 4 * i)) = .ibuf ⟨i, h⟩ :=
  locOf_ofNat (by omega) (show (0x4000 + 4 * i) / 4 = 0x1000 + i by omega)

theorem locOf_obuf {i : Nat} (h : i < 441) : locOf (at' (0x5000 + 4 * i)) = .obuf ⟨i, h⟩ :=
  locOf_ofNat (by omega) (show (0x5000 + 4 * i) / 4 = 0x1400 + i by omega)

theorem locOf_spec {k : Nat} (h : k < 220) : locOf (at' (0x6000 + 4 * k)) = .spec ⟨k, h⟩ :=
  locOf_ofNat (by omega) (show (0x6000 + 4 * k) / 4 = 0x1800 + k by omega)

theorem locOf_acc_low {k : Nat} (h : k < 220) : locOf (at' (0x8000 + 8 * k)) = .acc ⟨k, h⟩ false :=
  locOf_ofNat (by omega) (show (0x8000 + 8 * k) / 4 = 0x2000 + 2 * k + 0 by omega)

theorem locOf_acc_high {k : Nat} (h : k < 220) : locOf (at' (0x8000 + 8 * k + 4)) = .acc ⟨k, h⟩ true :=
  locOf_ofNat (by omega) (show (0x8000 + 8 * k + 4) / 4 = 0x2000 + 2 * k + 1 by omega)

/-- Bits 1:0 of an offset select no location (R63). -/
theorem locOf_eq_of_aligned {off off' : Half} (h : aligned off = aligned off') : locOf off = locOf off' := by
  have hword : off.toNat / 4 = off'.toNat / 4 := by
    unfold aligned at h
    omega
  rw [locOf_eq, locOf_eq, hword]

/-! ### Accesses with no command in flight -/

section
variable {s : State} {off : Half} {l : Loc}

theorem performRead_idle (hidle : s.status.busy = false) (hloc : locOf off = l) :
    performRead off s = readDone (readLoc s l) s := by
  rw [performRead_current (inFlightEntry_of_not_busy hidle _), hloc]
  rfl

/-- A write reaches a location that drops writes while BUSY (R67). -/
theorem performWrite_idle {v : Word} {t : State} (hidle : s.status.busy = false) (hloc : locOf off = l)
    (hwrite : writeLoc l v s = whenNotBusy s t) : performWrite off v s = writeDone t := by
  rw [performWrite, hloc, hwrite, whenNotBusy_idle hidle]
  rfl

end

/-! ### The words of a 64-bit entry (R65) -/

theorem wordOf_low (d : Dword) : wordOf d false = d.setWidth 32 :=
  (BitVec.setWidth_eq_extractLsb' (by decide)).symm

theorem wordOf_high (d : Dword) : wordOf d true = (d >>> 32).setWidth 32 := by
  apply BitVec.eq_of_getLsbD_eq
  intro i hi
  simp [wordOf, hi]

/-- The two words together are the entry. -/
theorem words_append (d : Dword) : wordOf d true ++ wordOf d false = d := by
  apply BitVec.eq_of_getLsbD_eq
  intro i hi
  simp only [wordOf, if_true, Bool.false_eq_true, if_false, BitVec.getLsbD_append, BitVec.getLsbD_extractLsb']
  split
  next hlow => simp [hlow]
  next hhigh => simp [show i - 32 < 32 by omega, show 32 + (i - 32) = i by omega]

/-- Writing the low word of an entry makes it the low word (R65). -/
theorem extractLsb'_setWord_low (d : Dword) (w : Word) : (setWord d false w).extractLsb' 0 32 = w := by
  apply BitVec.eq_of_getLsbD_eq
  intro i hi
  simp only [setWord, Bool.false_eq_true, if_false, BitVec.getLsbD_extractLsb', BitVec.getLsbD_append, Nat.zero_add]
  simp [hi]

/-- Writing both words of `e`, the low one first, replaces the whole entry. -/
theorem setWord_both (d e : Dword) : setWord (setWord d false (wordOf e false)) true (wordOf e true) = e := by
  rw [setWord, if_pos rfl, extractLsb'_setWord_low, words_append]

theorem performWrite_rem_low {s : State} (hidle : s.status.busy = false) (j : Fin 1022) (v : Word) :
    performWrite (at' (0x2000 + 8 * j)) v s =
      writeDone { s with rem := s.rem.set j (setWord s.rem[j] false v) } :=
  performWrite_idle hidle (locOf_rem_low j.isLt) rfl

theorem performWrite_rem_high {s : State} (hidle : s.status.busy = false) (j : Fin 1022) (v : Word) :
    performWrite (at' (0x2000 + 8 * j + 4)) v s =
      writeDone { s with rem := s.rem.set j (setWord s.rem[j] true v) } :=
  performWrite_idle hidle (locOf_rem_high j.isLt) rfl

/-! ### The bits of the STATUS word (R24, R39) -/

/-- The flags in the order of their bits. -/
def statusFlags (f : Status) : List Bool :=
  [f.busy, f.done, f.err, f.haz, f.sat, f.asat, f.kvalid, f.obufv, f.specv, f.domv, f.clsres]

theorem getLsbD_statusWord (f : Status) (n : Nat) : f.word.getLsbD n = (statusFlags f).getD n false := by
  by_cases hn : n < 11
  · interval_cases n <;> simp [Status.word, statusFlags, getLsbD_flagBit, -BitVec.getLsbD_eq_getElem]
  · have hne (k : Nat) (hk : k < 11) : k ≠ n := by omega
    rw [List.getD_eq_default _ _ (Nat.not_lt.mp hn)]
    simp [Status.word, getLsbD_flagBit, hne]

/-! ### The statements -/

/-- Settles O41: the offset of each entry reaches it, and a read returns what the location holds. -/
theorem memoriesReadTheirEntries : Obligations.MemoriesReadTheirEntries := by
  intro s hidle
  refine ⟨fun i hi => ?_, fun j hj => ⟨?_, ?_⟩, fun i hi => ?_, fun i hi => ?_, fun k hk => ?_,
    fun k hk => ⟨?_, ?_⟩⟩
  · rw [performRead_idle hidle (locOf_kmem hi), getElem!_pos s.kmem i hi]
    rfl
  · rw [performRead_idle hidle (locOf_rem_low hj), getElem!_pos s.rem j hj, ← wordOf_low]
    rfl
  · rw [performRead_idle hidle (locOf_rem_high hj), getElem!_pos s.rem j hj, ← wordOf_high]
    rfl
  · rw [performRead_idle hidle (locOf_ibuf hi), getElem!_pos s.ibuf i hi]
    rfl
  · rw [performRead_idle hidle (locOf_obuf hi), getElem!_pos s.obuf i hi]
    rfl
  · rw [performRead_idle hidle (locOf_spec hk), getElem!_pos s.spec k hk]
    rfl
  · rw [performRead_idle hidle (locOf_acc_low hk), getElem!_pos s.acc k hk, ← wordOf_low]
    rfl
  · rw [performRead_idle hidle (locOf_acc_high hk), getElem!_pos s.acc k hk, ← wordOf_high]
    rfl

/-- Settles O44: the registers by `performWrite_store`, the entries by `performWrite_idle`. -/
theorem hostWritesReachTheirLocation : Obligations.HostWritesReachTheirLocation := by
  intro s v hidle
  have hhalf : v.setWidth 16 = v.extractLsb' 0 16 := BitVec.setWidth_eq_extractLsb' (by decide)
  rw [hhalf]
  exact ⟨performWrite_store (r := .klen) hidle rfl, performWrite_store (r := .xin) hidle rfl,
    performWrite_store (r := .caLo) hidle rfl, performWrite_store (r := .caHi) hidle rfl,
    performWrite_store (r := .cbLo) hidle rfl, performWrite_store (r := .cbHi) hidle rfl,
    performWrite_store (r := .ccLo) hidle rfl, performWrite_store (r := .ccHi) hidle rfl,
    performWrite_store (r := .clshist) hidle rfl,
    fun i => performWrite_idle hidle (locOf_kmem i.isLt) rfl,
    fun j => ⟨performWrite_rem_low hidle j v, performWrite_rem_high hidle j v⟩,
    fun i => performWrite_idle hidle (locOf_ibuf i.isLt) rfl⟩

/-- Settles O47: the words read are those of the entry, and `setWord_both` puts them together again. -/
theorem remainderSurvivesSaveAndRestore : Obligations.RemainderSurvivesSaveAndRestore := by
  intro s u j lo hi hs hu hlo hhi
  obtain rfl : lo = wordOf s.rem[j] false :=
    eq_of_readDone_eq (hlo.symm.trans (performRead_idle hs (locOf_rem_low j.isLt)))
  obtain rfl : hi = wordOf s.rem[j] true :=
    eq_of_readDone_eq (hhi.symm.trans (performRead_idle hs (locOf_rem_high j.isLt)))
  have hentry (d : Dword) : (u.rem.set j d).set j (setWord (u.rem.set j d)[j] true (wordOf s.rem[j] true)) =
      u.rem.set j (setWord d true (wordOf s.rem[j] true)) := by
    have hnew : (u.rem.set j d)[j] = d := Vector.getElem_set_self _
    rw [hnew, Vector.set_set]
  rw [performWrite_rem_low hu]
  refine (performWrite_rem_high (by exact hu) j _).trans ?_
  exact congrArg (fun r => writeDone { u with rem := r }) ((hentry _).trans (by rw [setWord_both]))

/-- Settles O38, bit by bit. -/
theorem statusWordShowsEveryFlag : Obligations.StatusWordShowsEveryFlag := by
  intro s
  have hbit := getLsbD_statusWord s.status
  exact ⟨s.status.word, performRead_status s, hbit 0, hbit 1, hbit 2, hbit 3, hbit 4, hbit 5, hbit 6, hbit 7, hbit 8,
    hbit 9, hbit 10, fun n hn => (hbit n).trans (List.getD_eq_default _ _ hn)⟩

/-- Settles O43: the location decides what an access does. -/
theorem lowOffsetBitsAreIgnored : Obligations.LowOffsetBitsAreIgnored := by
  intro s off off' v h
  have hloc := locOf_eq_of_aligned h
  exact ⟨by rw [performRead, hloc, performRead], by rw [performWrite, hloc, performWrite]⟩

end Sys2Proof.Proofs

/-! SUPPORT. Proofs about the command words and the host programs of 30_encoding.md: the two directions of the encoding,
a line of the assembler, and what a `for` expands to; then the statements about them. -/

namespace Sys2Proof.Proofs

open Sys2Proof Sys2Proof.Machine Sys2Proof.Claims

/-! ### The assembler -/

/-- The assembler encodes the well-formed command a line names, and refuses every other line (R97). -/
theorem assembleWords_eq_some {words : List (List Char)} {w : Word} (h : Asm.assembleWords words = some w) :
    ∃ i, Asm.parseWords words = some i ∧ i.wellFormed = true ∧ encode i = w := by
  unfold Asm.assembleWords at h
  split at h
  next i hparse =>
    split at h
    next hwf => exact ⟨i, hparse, hwf, Option.some.inj h⟩
    next => cases h
  next => cases h

/-! ### The lines of a `for` -/

theorem expandFrom_eq (f : Int → Option (List HostOp)) (n : Nat) (k : Int) :
    expandFrom f n k = ((List.range n).mapM fun (i : Nat) => f (k + i)).map List.flatten := by
  induction n generalizing k with
  | zero => rfl
  | succ n ih =>
    have hnext : (fun i : Nat => f (k + 1 + i)) = (fun i : Nat => f (k + i)) ∘ Nat.succ := by
      funext i
      simp only [Function.comp, Nat.cast_succ]
      congr 1
      omega
    rw [expandFrom, ih, List.range_succ_eq_map, List.mapM_cons, List.mapM_map, ← hnext, Nat.cast_zero, add_zero]
    cases f k with
    | none => rfl
    | some ops => cases (List.range n).mapM fun (i : Nat) => f (k + 1 + i) <;> rfl

theorem closeWord_cons (n : HostName) (k : Int) (vars : List (HostName × Int)) (w : List Char) :
    closeWord ((n, k) :: vars) w =
      if w = n then (if 0 ≤ k then Nat.toDigits 10 k.toNat else w) else closeWord vars w := by
  unfold closeWord
  rw [lookupName]
  by_cases hw : w = n
  · rw [if_pos hw, if_pos hw.symm]
    by_cases hk : 0 ≤ k
    · rw [if_pos hk]
      exact if_neg (Int.not_lt.mpr hk)
    · rw [if_neg hk]
      exact if_pos (Int.not_le.mp hk)
  · rw [if_neg hw, if_neg (Ne.symm hw)]

/-! ### The statements -/

/-- Settles O1: `decode_encode`, which reads the three fields of the encoding back. -/
theorem decodeInvertsEncode : Obligations.DecodeInvertsEncode := fun _ => decode_encode

/-- Settles O2: `decode_cases` gives the fields of the word, which are those of the encoding. -/
theorem decodedWordIsTheEncoding : Obligations.DecodedWordIsTheEncoding := by
  intro w i h
  obtain ⟨-, -, -, hwf⟩ := decode_cases w i h
  exact ⟨hwf, encode_of_decode h⟩

/-- Settles O60: the word is an encoding, so it decodes. -/
theorem assembledLineDecodesToItsCommand : Obligations.AssembledLineDecodesToItsCommand := by
  intro line w h
  obtain ⟨i, hparse, hwf, rfl⟩ := assembleWords_eq_some h
  exact ⟨i, hparse, decode_encode hwf⟩

/-- Settles O58: each form by its equation, and a `for` by `expandFrom_eq`. -/
theorem hostProgramFormsExpandAsListed : Obligations.HostProgramFormsExpandAsListed := by
  refine ⟨fun vars => ⟨fun _ _ => rfl, fun _ _ => rfl, fun _ => rfl, rfl, fun _ _ => rfl, fun _ _ => rfl,
    fun _ _ => rfl, fun _ _ => rfl, fun _ => rfl, fun line => ?_, fun n a b l => ?_,
    fun e names => e.eval_close vars names, fun _ => rfl, fun n k w => closeWord_cons n k vars w⟩,
    fun _ => rfl, HostExpr.close_nil, fun _ => rfl, commandWord_nil⟩
  · exact (Option.map_map (· ++ [.wait]) writeCommand (commandWord vars line)).symm
  · rw [HostLine.expandIn, expandFrom_eq]

end Sys2Proof.Proofs

/-! SUPPORT. Proofs about the numbers of 42_spectrum.md and 43_classifier.md: the constant tables, and the decision of
an EM fit as the sign of a quadratic, which the rounded coefficients keep outside a margin; then the statements about
them. -/

namespace Sys2Proof.Proofs

open Sys2Proof Sys2Proof.Machine Sys2Proof.Claims

/-! ### The decision of a fit -/

/-- The logarithm of a responsibility (R184). -/
theorem log_responsibility {g w v : ℝ} (hw : 0 < w) (hv : 0 < v) (mu x : ℝ) :
    Real.log (responsibility g w mu v x) =
      Real.log w - (x - mu) ^ 2 / (g * v) - (Real.log (2 * Real.pi) + Real.log v) / 2 := by
  have hpi : 0 < 2 * Real.pi := Real.two_pi_pos
  have hroot : 0 < Real.sqrt (2 * Real.pi * v) := Real.sqrt_pos.mpr (mul_pos hpi hv)
  rw [responsibility, Real.log_div (mul_pos hw (Real.exp_pos _)).ne' hroot.ne',
    Real.log_mul hw.ne' (Real.exp_ne_zero _), Real.log_exp, Real.log_sqrt (mul_pos hpi hv).le,
    Real.log_mul hpi.ne' hv.ne']
  ring

theorem responsibility_pos {w v : ℝ} (hw : 0 < w) (hv : 0 < v) (g mu x : ℝ) : 0 < responsibility g w mu v x :=
  div_pos (mul_pos hw (Real.exp_pos _)) (Real.sqrt_pos.mpr (mul_pos Real.two_pi_pos hv))

/-- The fitted quadratic of R184. -/
noncomputable def fitted (g wHi muHi vHi wLo muLo vLo x : ℝ) : ℝ :=
  fitA g vHi vLo * x ^ 2 + fitB g muHi vHi muLo vLo * x + fitC g wHi muHi vHi wLo muLo vLo

section
variable {g wHi muHi vHi wLo muLo vLo : ℝ}

/-- The fitted quadratic is the difference of the logarithms. -/
theorem fitted_eq_log_sub (hwHi : 0 < wHi) (hwLo : 0 < wLo) (hvHi : 0 < vHi) (hvLo : 0 < vLo) (x : ℝ) :
    fitted g wHi muHi vHi wLo muLo vLo x =
      Real.log (responsibility g wHi muHi vHi x) - Real.log (responsibility g wLo muLo vLo x) := by
  rw [log_responsibility hwHi hvHi, log_responsibility hwLo hvLo, fitted, fitA, fitB, fitC,
    Real.log_div hwHi.ne' hwLo.ne', Real.log_div hvLo.ne' hvHi.ne']
  ring

/-- The responsibility of hi exceeds that of lo exactly where the fitted quadratic is positive (R184). -/
theorem responsibility_lt_iff (hwHi : 0 < wHi) (hwLo : 0 < wLo) (hvHi : 0 < vHi) (hvLo : 0 < vLo) (x : ℝ) :
    responsibility g wLo muLo vLo x < responsibility g wHi muHi vHi x ↔
      0 < fitted g wHi muHi vHi wLo muLo vLo x := by
  rw [fitted_eq_log_sub hwHi hwLo hvHi hvLo, sub_pos,
    Real.log_lt_log_iff (responsibility_pos hwLo hvLo ..) (responsibility_pos hwHi hvHi ..)]

end

/-- Coefficients off by at most 1/2 each move the quadratic by at most (x² + x + 1)/2 for `x ≥ 0` (R185). -/
theorem abs_quadratic_sub_le {a b c a' b' c' x : ℝ} (hx : 0 ≤ x) (ha : |a - a'| ≤ 1 / 2) (hb : |b - b'| ≤ 1 / 2)
    (hc : |c - c'| ≤ 1 / 2) :
    |(a * x ^ 2 + b * x + c) - (a' * x ^ 2 + b' * x + c')| ≤ (x ^ 2 + x + 1) / 2 := by
  have hsplit : (a * x ^ 2 + b * x + c) - (a' * x ^ 2 + b' * x + c') =
      (a - a') * x ^ 2 + (b - b') * x + (c - c') := by ring
  calc |(a * x ^ 2 + b * x + c) - (a' * x ^ 2 + b' * x + c')|
      ≤ |(a - a') * x ^ 2| + |(b - b') * x| + |c - c'| := by rw [hsplit]; exact abs_add_three _ _ _
    _ = |a - a'| * x ^ 2 + |b - b'| * x + |c - c'| := by
        rw [abs_mul, abs_mul, abs_of_nonneg hx, abs_of_nonneg (sq_nonneg x)]
    _ ≤ 1 / 2 * x ^ 2 + 1 / 2 * x + 1 / 2 := by gcongr
    _ = (x ^ 2 + x + 1) / 2 := by ring

/-- A number nearer to another than that one is to 0 has its sign. -/
theorem pos_iff_of_abs_sub_le {d e margin : ℝ} (hnear : |d - e| ≤ margin) (hfar : margin < |e|) :
    0 < d ↔ 0 < e := by
  obtain ⟨hlow, hhigh⟩ := abs_le.mp hnear
  rcases lt_abs.mp hfar with he | he
  · exact iff_of_true (by linarith) (by linarith [(abs_nonneg _).trans hnear])
  · exact iff_of_false (by linarith) (by linarith [(abs_nonneg _).trans hnear])

/-! ### The statements -/

/-- Settles O24: the bounds of the two sums, and of the magnitude each entry holds. -/
theorem magnitudesStayInRange : Obligations.MagnitudesStayInRange := by
  refine ⟨fun s k => ?_, fun s t hobufv hexec k hk => ?_⟩
  · rw [dftRe_block, dftIm_block]
    exact ⟨abs_reBin_le s k, abs_imBin_le s k⟩
  · cases (exec_spec hobufv).symm.trans hexec
    rw [toNat_afterSpec_spec s hk]
    exact ⟨magBin_sq_le s k, magBin_lt s k⟩

/-- Settles O23: the finite tables are checked entry by entry, and the sum of W is the machine's `sumTo`. -/
theorem tablesHaveTheStatedFacts : Obligations.TablesHaveTheStatedFacts := by
  have hsum : sumTo romW 441 = 220 * 2 ^ 15 := by decide +kernel
  have hsymmetric : ∀ x < 441, romW x = romW (440 - x) := by decide +kernel
  have hcircle : ∀ t < 441, 1073698442 ≤ romC t ^ 2 + romS t ^ 2 ∧ romC t ^ 2 + romS t ^ 2 ≤ 1073779514 := by
    decide +kernel
  rw [sumTo_eq_sum] at hsum
  exact ⟨rfl, rfl, rfl, fun x hx => hsymmetric x (Nat.lt_succ_of_le hx), hsum, rfl, rfl, hcircle⟩

/-- Settles O32: the logarithms of the responsibilities differ by the fitted quadratic, and CLS decides by one whose
coefficients are within 1/2 of it. -/
theorem clsAgreesWithTheFittedDecision : Obligations.ClsAgreesWithTheFittedDecision := by
  intro s src x g wHi muHi vHi wLo muLo vLo scale hx _ hwHi hwLo hvHi hvLo hscale ha hb hc fit margin
  have hfit : responsibility g wLo muLo vLo x.toNat < responsibility g wHi muHi vHi x.toNat ↔ 0 < fit :=
    responsibility_lt_iff hwHi hwLo hvHi hvLo _
  have hmargin : |((coefA s * x.toNat ^ 2 + coefB s * x.toNat + coefC s : Int) : ℝ) - scale * fit| ≤ margin := by
    have hquadratic := abs_quadratic_sub_le (Nat.cast_nonneg x.toNat) ha hb hc
    have hscaled : scale * fit = scale * fitA g vHi vLo * (x.toNat : ℝ) ^ 2 +
        scale * fitB g muHi vHi muLo vLo * x.toNat + scale * fitC g wHi muHi vHi wLo muLo vLo := by
      ring
    rw [hscaled]
    push_cast
    exact hquadratic
  refine ⟨hfit, hmargin, classify x s, exec_cls hx, fun hfar => ?_⟩
  rw [classify_clsres, decides_iff, hfit, ← mul_pos_iff_of_pos_left hscale, ← pos_iff_of_abs_sub_le hmargin hfar]
  exact Int.cast_pos.symm

end Sys2Proof.Proofs

/-! SUPPORT. Proofs about a command in flight: what its effect depends on, runs of the machine, and the steps of its
latency; then the statements about it. -/

namespace Sys2Proof.Proofs

open Sys2Proof Sys2Proof.Machine Sys2Proof.Claims

/-! ### What a command's effect depends on -/

/-- A command that has an effect completes with it (R114). -/
theorem exec_of_effect {i : Instr} {s u : State} (h : Effect i s u) : exec i s = .next (complete u) := by
  cases h with
  | nop | rclr | aclr => rfl
  | kcommit _ hgood => exact dif_neg hgood
  | filt _ hvalid | spec _ hvalid | accum _ hvalid => exact if_neg (by simp [hvalid])
  | domsel _ hdata => exact if_neg hdata
  | domset _ bin hbin => exact dif_pos hbin
  | cls _ src x hx =>
    rcases hx with ⟨rfl, rfl⟩ | ⟨rfl, hdomv, hspecv, rfl⟩
    · exact execCls_xin s
    · exact execCls_spec hdomv hspecv

/-- A command errs with its first failed check, or has its effect and completes (R112, R204). -/
theorem exec_outcomes {i : Instr} {s t : State} (h : exec i s = .next t) :
    (∃ c, failedCheck i s = some c ∧ t = erred c s) ∨ ∃ u, Effect i s u ∧ t = complete u := by
  obtain ⟨hfail, hpass⟩ := exec_failedCheck i s
  cases hcheck : failedCheck i s with
  | some c =>
    cases (hfail c hcheck).symm.trans h
    exact .inl ⟨c, rfl, rfl⟩
  | none =>
    obtain ⟨u, hu, hexec⟩ := hpass hcheck
    cases hexec.symm.trans h
    exact .inr ⟨u, hu, rfl⟩

theorem sameInputs_iff {s t : State} : SameInputs s t ↔ ∃ done err haz sat asat ie e, t = { s with
    status := { s.status with done := done, err := err, haz := haz, sat := sat, asat := asat }
    ie := ie, env := e } :=
  ⟨fun h => ⟨_, _, _, _, _, _, _, h⟩, fun ⟨_, _, _, _, _, _, _, h⟩ => by rw [h]; rfl⟩

theorem sameInputs_env (s : State) (e : Env) : SameInputs s { s with env := e } := rfl

theorem SameInputs.trans {s t u : State} (hst : SameInputs s t) (htu : SameInputs t u) : SameInputs s u := by
  obtain ⟨_, _, _, _, _, _, _, rfl⟩ := sameInputs_iff.mp hst
  obtain ⟨_, _, _, _, _, _, _, rfl⟩ := sameInputs_iff.mp htu
  rfl

theorem failedCheck_of_sameInputs {s t : State} (h : SameInputs s t) (i : Instr) :
    failedCheck i t = failedCheck i s := by
  rw [h]
  cases i with
  | cls src => cases src <;> rfl
  | _ => rfl

theorem effect_env {i : Instr} {s u : State} (h : Effect i s u) (e : Env) :
    Effect i { s with env := e } { u with env := e } := by
  cases h with
  | nop => exact .nop _
  | kcommit _ hgood => exact .kcommit { s with env := e } hgood
  | rclr => exact .rclr _
  | filt _ hvalid => exact .filt { s with env := e } hvalid
  | spec _ hvalid => exact .spec { s with env := e } hvalid
  | accum _ hvalid => exact .accum { s with env := e } hvalid
  | aclr => exact .aclr _
  | domsel _ hdata => exact .domsel { s with env := e } hdata
  | domset _ bin hbin => exact .domset { s with env := e } bin hbin
  | cls _ src x hx => exact .cls { s with env := e } src x hx

/-- The model's own fields pass through a command (R10, R113). -/
theorem exec_env {i : Instr} {s t : State} (h : exec i s = .next t) (e : Env) :
    exec i { s with env := e } = .next { t with env := e } := by
  rcases exec_outcomes h with ⟨c, hcheck, rfl⟩ | ⟨u, hu, rfl⟩
  · have hsame : failedCheck i { s with env := e } = failedCheck i s :=
      failedCheck_of_sameInputs (sameInputs_env s e) i
    exact (exec_failedCheck i { s with env := e }).1 c (hsame.trans hcheck)
  · exact exec_of_effect (effect_env hu e)

/-- The two states agree but for the W1C flags HAZ, SAT and ASAT, the enables and the model's own fields. -/
def SameResult (u t : State) : Prop :=
  t = { u with
        status := { u.status with haz := t.status.haz, sat := t.status.sat, asat := t.status.asat }
        ie := t.ie, env := t.env }

theorem effect_of_sameInputs {i : Instr} {s t u : State} (h : SameInputs s t) (herr : t.status.err = s.status.err)
    (hu : Effect i s u) : ∃ v, Effect i t v ∧ SameResult (complete u) (complete v) := by
  obtain ⟨_, err, _, _, _, _, _, rfl⟩ := sameInputs_iff.mp h
  obtain rfl : err = s.status.err := herr
  cases hu with
  | nop => exact ⟨_, .nop _, rfl⟩
  | kcommit _ hgood => exact ⟨_, .kcommit _ (by exact hgood), rfl⟩
  | rclr => exact ⟨_, .rclr _, rfl⟩
  | filt _ hvalid => exact ⟨_, .filt _ (by exact hvalid), rfl⟩
  | spec _ hvalid => exact ⟨_, .spec _ (by exact hvalid), rfl⟩
  | accum _ hvalid => exact ⟨_, .accum _ (by exact hvalid), rfl⟩
  | aclr => exact ⟨_, .aclr _, rfl⟩
  | domsel _ hdata => exact ⟨_, .domsel _ (by exact hdata), rfl⟩
  | domset _ bin hbin => exact ⟨_, .domset _ bin hbin, rfl⟩
  | cls _ src x hx => exact ⟨_, .cls _ src x (by exact hx), rfl⟩

/-- From the same inputs a command has the same result (R113). -/
theorem exec_of_sameInputs {i : Instr} {s t u : State} (h : SameInputs s t) (herr : t.status.err = s.status.err)
    (hexec : exec i s = .next u) : ∃ v, exec i t = .next v ∧ SameResult u v := by
  rcases exec_outcomes hexec with ⟨c, hcheck, rfl⟩ | ⟨u, hu, rfl⟩
  · refine ⟨_, (exec_failedCheck i t).1 c ((failedCheck_of_sameInputs h i).trans hcheck), ?_⟩
    obtain ⟨_, _, _, _, _, _, _, rfl⟩ := sameInputs_iff.mp h
    rfl
  · obtain ⟨v, hv, hsame⟩ := effect_of_sameInputs h herr hu
    exact ⟨_, exec_of_effect hv, hsame⟩

/-! ### Runs -/

theorem run_add {m : Nat} {s t : State} (h : core.run m s = .next t) (n : Nat) :
    core.run (m + n) s = core.run n t := by
  induction m generalizing s with
  | zero =>
    cases h
    rw [Nat.zero_add]
  | succ m ih =>
    obtain ⟨r, hr⟩ := step_next s
    rw [run_succ hr] at h
    rw [Nat.succ_add, run_succ hr, ih h]

theorem run_one {s t : State} (h : step s = .next t) : core.run 1 s = .next t := run_succ h

/-- `rst_n` is high in every step to come. -/
def RstStaysHigh (e : Env) : Prop := ∀ b ∈ e.rstQ, b = true

theorem RstStaysHigh.rstHigh {s : State} (h : RstStaysHigh s.env) : s.rstHigh = true := by
  unfold State.rstHigh
  cases hq : s.env.rstQ with
  | nil => rfl
  | cons b q => exact h b (by rw [hq]; exact List.mem_cons_self)

theorem RstStaysHigh.tail {e e' : Env} (h : RstStaysHigh e) (htail : e'.rstQ = e.rstQ.tail) : RstStaysHigh e' :=
  fun b hb => h b (List.mem_of_mem_tail (by rwa [htail] at hb))

theorem engineStep_ends {s t : State} (h : engineStep s = .next t) : t.status.busy = false ∧ t.env = s.env := by
  rcases engineStep_inv h with ⟨i, -, hexec⟩ | ⟨-, -, rfl⟩
  · obtain ⟨hbusy, -, henv, -⟩ := commandsErrPreciselyOrComplete i s t hexec
    exact ⟨hbusy, henv⟩
  · exact ⟨rfl, rfl⟩

/-! ### A step of the latency -/

/-- `t` is `s` one step of the latency of its command later. -/
structure Waits (s t : State) : Prop where
  inputs : SameInputs s t
  err : s.status.err = false → t.status.err = false
  engineWait : t.env.engineWait = s.env.engineWait - 1
  rstQ : t.env.rstQ = s.env.rstQ.tail
  hostQ : ∀ op ∈ t.env.hostQ, op ∈ s.env.hostQ

theorem hostWrite_while_busy {l : Loc} {v : Word} {s u : State} (h : HostWrite l v s u) (hsoft : ¬ SoftResets l v)
    (hbusy : s.status.busy = true) : u.env = s.env ∧ (s.status.err = false → u.status.err = false) := by
  cases h with
  | reset _ _ hset => exact absurd ⟨rfl, hset⟩ hsoft
  | accept _ _ hidle => exact absurd hidle.1 (by simp [hbusy])
  | status => exact ⟨rfl, fun herr => by simp [Status.w1c, herr]⟩
  | _ => exact ⟨rfl, id⟩

/-- With a command in flight, a step that is neither its engine step nor a reset is a step of its latency. -/
theorem waits_of_step {s t : State} (hbusy : s.status.busy = true) (hnotDue : ¬ EngineDue s) (hreset : ¬ Resets s)
    (hstep : step s = .next t) : Waits s t := by
  have hinputs : SameInputs s t := inputsOfACommandInFlightAreFixed s t hbusy hnotDue hreset hstep
  have hwait : (hostTurnEnv s).engineWait = s.env.engineWait - 1 := if_pos hbusy
  cases moves_of_step hstep hreset with
  | command hruns => exact absurd hruns.1 hnotDue
  | error hdue => exact absurd hdue hnotDue
  | quiet _ he =>
    obtain ⟨hengineWait, hrstQ, hhostQ⟩ := he
    refine ⟨hinputs, id, hengineWait.trans hwait, hrstQ, fun op hop => ?_⟩
    rcases hhostQ with hsame | ⟨first, hfirst⟩
    · exact hsame ▸ hop
    · exact (show s.env.hostQ = _ from hfirst) ▸ List.mem_cons_of_mem _ hop
  | @write _ _ _ u _ _ hsoft hu =>
    obtain ⟨henv, herr⟩ := hostWrite_while_busy hu hsoft hbusy
    refine ⟨hinputs, herr, (congrArg Env.engineWait henv).trans hwait, congrArg Env.rstQ henv, fun op hop => ?_⟩
    have hhostQ : op ∈ u.env.hostQ := hop
    rw [henv] at hhostQ
    exact List.mem_of_mem_tail hhostQ

theorem Waits.busy {s t : State} (h : Waits s t) : t.status.busy = s.status.busy := by rw [h.inputs]

/-- A step with a command in flight ends it or is a step of its latency (R110, R115, R262). -/
theorem ends_or_waits {s t : State} (hbusy : s.status.busy = true) (hstep : step s = .next t) :
    t.status.busy = false ∨ s.env.engineWait ≠ 0 ∧ Waits s t := by
  by_cases hreset : Resets s
  · obtain ⟨draw, e, -, heq⟩ := step_of_resets hreset
    cases heq.symm.trans hstep
    exact .inl rfl
  · by_cases hdue : EngineDue s
    · rw [step_of_engineDue hdue] at hstep
      exact .inl (engineStep_ends hstep).1
    · have hrst : s.rstHigh = true := Bool.of_not_eq_false fun hlow => hreset (.inl hlow)
      exact .inr ⟨fun hwait => hdue ⟨hrst, hbusy, hwait⟩, waits_of_step hbusy hdue hreset hstep⟩

theorem not_resets {s : State} (hrst : RstStaysHigh s.env) (hsoft : ∀ op ∈ s.env.hostQ, ¬ MaySoftReset op) :
    ¬ Resets s := by
  rintro (hlow | ⟨off, v, ⟨-, o, e, q, hq, rfl, rfl⟩, hset⟩)
  · rw [hrst.rstHigh] at hlow
    cases hlow
  · exact hsoft (.write o e) (by rw [hq]; exact List.mem_cons_self) ⟨o, e, _, rfl, hset⟩

/-- Without a reset the latency runs out and leaves what the command reads as it was (R72, R113). -/
theorem run_latency {n : Nat} {s : State} (hn : s.env.engineWait = n) (hbusy : s.status.busy = true)
    (herr : s.status.err = false) (hrst : RstStaysHigh s.env) (hsoft : ∀ op ∈ s.env.hostQ, ¬ MaySoftReset op) :
    ∃ t, core.run n s = .next t ∧ SameInputs s t ∧ t.status.err = false ∧ EngineDue t := by
  induction n generalizing s with
  | zero => exact ⟨s, rfl, rfl, herr, hrst.rstHigh, hbusy, hn⟩
  | succ n ih =>
    obtain ⟨r, hr⟩ := step_next s
    have hwaits := waits_of_step hbusy (fun hdue => by simp [hdue.2.2] at hn) (not_resets hrst hsoft) hr
    obtain ⟨t, ht, hinputs, herr', hdue⟩ := ih (by rw [hwaits.engineWait, hn]; rfl) (hwaits.busy.trans hbusy)
      (hwaits.err herr) (hrst.tail hwaits.rstQ) fun op hop => hsoft op (hwaits.hostQ op hop)
    exact ⟨t, (run_succ hr).trans ht, hwaits.inputs.trans hinputs, herr', hdue⟩

/-! ### The statements -/

/-- Settles O53: `exec_env`. -/
theorem execIgnoresTheEnvironment : Obligations.ExecIgnoresTheEnvironment := fun _ _ _ e h => exec_env h e

/-- Settles O54, by induction on the latency left: a reset and the engine step end the command. -/
theorem acceptedCommandEnds : Obligations.AcceptedCommandEnds := by
  intro s hbusy
  generalize hn : s.env.engineWait = n
  induction n generalizing s with
  | zero =>
    obtain ⟨t, ht⟩ := step_next s
    rcases ends_or_waits hbusy ht with hidle | ⟨hwait, -⟩
    · exact ⟨1, t, le_rfl, run_one ht, hidle⟩
    · exact absurd hn hwait
  | succ n ih =>
    obtain ⟨t, ht⟩ := step_next s
    rcases ends_or_waits hbusy ht with hidle | ⟨-, hwaits⟩
    · exact ⟨1, t, by omega, run_one ht, hidle⟩
    · obtain ⟨k, u, hk, hu, hidle⟩ := ih t (hwaits.busy.trans hbusy) (by rw [hwaits.engineWait, hn]; rfl)
      exact ⟨k + 1, u, by omega, (run_succ ht).trans hu, hidle⟩

/-- Settles O55: the latency runs out on the same inputs, so the engine step has the same result. -/
theorem commandResultIsIndependentOfTheSchedule : Obligations.CommandResultIsIndependentOfTheSchedule := by
  intro s u i hbusy herr hdecode hrst hsoft hexec
  obtain ⟨r, hr, hinputs, herr', hdue⟩ := run_latency rfl hbusy herr hrst hsoft
  have hcmdLast : r.cmdLast = s.cmdLast := by rw [hinputs]
  have hentering : SameInputs s (entering r) := hinputs.trans (sameInputs_env r _)
  obtain ⟨t, ht, hsame⟩ := exec_of_sameInputs hentering (herr'.trans herr.symm) hexec
  refine ⟨t, (run_add hr 1).trans (run_one ?_), hsame⟩
  rw [step_of_runs ⟨hdue, hcmdLast ▸ hdecode⟩]
  exact ht

end Sys2Proof.Proofs

/-! SUPPORT. Proofs about the host lines of 30_encoding.md as they run: `wait`, `run` and `rd64`, each from its first
step to its last; then the statements about them. -/

namespace Sys2Proof.Proofs

open Sys2Proof Sys2Proof.Machine Sys2Proof.Claims

/-! ### A wait loop -/

section
variable {s : State} {q : List HostOp}

/-- While a command is in flight a `wait` only reads STATUS, until the engine step is due (R98, R262). -/
theorem run_wait_latency {n : Nat} (hn : s.env.engineWait = n) (hbusy : s.status.busy = true)
    (hq : s.env.hostQ = .wait :: q) (hrst : RstStaysHigh s.env) :
    ∃ e, core.run n s = .next { s with env := e } ∧ e.engineWait = 0 ∧ e.hostQ = .wait :: q ∧ RstStaysHigh e := by
  induction n generalizing s with
  | zero => exact ⟨s.env, rfl, hn, hq, hrst⟩
  | succ n ih =>
    have hturn : HostTurn s := hostTurn_of_wait hrst.rstHigh (by simp [hn])
    obtain ⟨r, hr, hwait, hlist, hlevels⟩ : ∃ e : Env, step s = .next { s with env := e } ∧
        e.engineWait = n ∧ e.hostQ = .wait :: q ∧ RstStaysHigh e := by
      refine ⟨_, step_wait hturn hq, ?_, ?_, hrst.tail rfl⟩
      · simp [readDone, hostEntering, hbusy, hn]
      · simp [readDone, hostEntering, hbusy, hq]
    obtain ⟨e, he, hdue⟩ := ih (s := { s with env := r }) hwait hbusy hlist hlevels
    exact ⟨e, (run_succ hr).trans he, hdue⟩

/-- Such a `wait` outlasts the engine step, which is the command's on the block as it was (R98, R115). -/
theorem run_wait_command (hbusy : s.status.busy = true) (hq : s.env.hostQ = .wait :: q) (hrst : RstStaysHigh s.env) :
    ∃ e u, core.run (s.env.engineWait + 1) s = .next u ∧ engineStep { s with env := e } = .next u ∧
      u.status.busy = false ∧ u.env.hostQ = .wait :: q ∧ RstStaysHigh u.env := by
  obtain ⟨e, he, hwait, hlist, hlevels⟩ := run_wait_latency rfl hbusy hq hrst
  have hdue : EngineDue { s with env := e } := ⟨hlevels.rstHigh, hbusy, hwait⟩
  obtain ⟨u, hu⟩ := engineStep_next (entering { s with env := e })
  obtain ⟨hidle, henv⟩ := engineStep_ends hu
  refine ⟨_, u, (run_add he 1).trans (run_one ((step_of_engineDue hdue).trans hu)), hu, hidle, ?_, ?_⟩
  · rw [henv]; exact hlist
  · rw [henv]; exact hlevels.tail rfl

/-- With no command in flight a `wait` is over after one read of STATUS (R98). -/
theorem step_wait_idle (hidle : s.status.busy = false) (hq : s.env.hostQ = .wait :: q) (hrst : s.rstHigh = true) :
    ∃ e : Env, step s = .next { s with env := e } ∧ e.hostQ = q ∧ e.busOut = some (.read s.status.word) ∧
      lookupName ['s'] e.names = some (s.status.word.toNat : Int) := by
  refine ⟨_, step_wait (hostTurn_of_idle hrst hidle) hq, ?_, rfl, ?_⟩
  · simp [readDone, hostEntering, hidle]
  · exact (lookupName_bindName ..).trans (if_pos rfl)

end

/-! ### The line `run` -/

/-- What the line `run` of a command line the assembler accepts expands to (R98). -/
theorem run_expand {line : List Char} {w : Word} (h : Asm.assembleLine line = some w) :
    (HostLine.run line).expand = some [.write (.num cmdOffset.toNat) (.num w.toNat), .wait] := by
  have hexpand : (HostLine.run line).expand = (commandWord [] line).map fun w => writeCommand w ++ [.wait] := rfl
  rw [hexpand, commandWord_nil, h]
  rfl

theorem word_num (w : Word) (names : List (HostName × Int)) : (HostExpr.num w.toNat).word names = w := by
  rw [HostExpr.word, HostExpr.eval, BitVec.ofInt_natCast, BitVec.ofNat_toNat, BitVec.setWidth_eq]

/-- A CMD write in mode IDLE starts the command (R28, R111). -/
theorem step_cmd_idle {s : State} {w : Word} {q : List HostOp} (hmode : s.mode = .idle) (hrst : s.rstHigh = true)
    (hq : s.env.hostQ = .write (.num cmdOffset.toNat) (.num w.toNat) :: q) :
    ∃ e : Env, step s = .next { s with
        cmdLast := w, status := { s.status with busy := true, done := false }, env := e } ∧
      e.hostQ = q ∧ e.rstQ = s.env.rstQ.tail := by
  obtain ⟨hidle, -⟩ := (mode_eq_idle_iff s).mp hmode
  have hwrite : performWrite cmdOffset w (hostEntering q s) = writeDone (accept w (hostEntering q s)) := by
    rw [← writeReg_cmd_idle (s := hostEntering q s) hmode]
    exact performWrite_regOffset .cmd w _
  have hstep := step_write (hostTurn_of_idle hrst hidle) hq
  rw [word_num] at hstep
  exact ⟨_, hstep.trans (congrArg Host.Outcome.next hwrite), rfl, rfl⟩

/-! ### The line `rd64` -/

theorem readLoc_env (s : State) (e : Env) (l : Loc) : readLoc { s with env := e } l = readLoc s l := by
  cases l with
  | reg r => cases r <;> rfl
  | _ => rfl

/-- With no command in flight a read binds its name to the value of the location (R66, R98). -/
theorem step_read_idle {s : State} {off : HostExpr} {n : HostName} {q : List HostOp} (hidle : s.status.busy = false)
    (hrst : RstStaysHigh s.env) (hq : s.env.hostQ = .read off n :: q) :
    ∃ e : Env, step s = .next { s with env := e } ∧ e.hostQ = q ∧ RstStaysHigh e ∧
      e.names = bindName n (readLoc s (locOf (off.offset s.env.names))).toNat s.env.names := by
  have hread : performRead (off.offset s.env.names) (hostEntering q s) =
      readDone (readLoc s (locOf (off.offset s.env.names))) (hostEntering q s) := by
    rw [performRead_idle (s := hostEntering q s) hidle rfl]
    exact congrArg (fun w => readDone w (hostEntering q s)) (readLoc_env s _ _)
  have hstep := step_read (hostTurn_of_idle hrst.rstHigh hidle) hq
  rw [readInto_word (congrArg (fun t : State => t.env.busOut) hread), hread] at hstep
  exact ⟨_, hstep, rfl, hrst.tail rfl, rfl⟩

theorem toNat_words (d : Dword) : ((wordOf d true).toNat : Int) * 2 ^ 32 + (wordOf d false).toNat = d.toNat := by
  have hlt := d.isLt
  simp only [wordOf, if_true, Bool.false_eq_true, if_false, BitVec.extractLsb'_toNat, Nat.shiftRight_eq_div_pow]
  omega

/-- An offset given as an integer reaches the location of the offset as a natural number. -/
theorem locOf_ofInt {off : Int} {m : Nat} {l : Loc} (hoff : off = m) (hloc : locOf (at' m) = l) :
    locOf (BitVec.ofInt 16 off) = l := by
  rw [hoff, BitVec.ofInt_natCast]
  exact hloc

/-- The three steps of `rd64` leave the block alone and bind the name to the two words read (R98). -/
theorem run_rd64 {s : State} {off : Int} {n : HostName} {q : List HostOp} (hidle : s.status.busy = false)
    (hrst : RstStaysHigh s.env)
    (hq : s.env.hostQ = .read (.num off) ['l', 'o'] :: .read (.add (.num off) (.num 4)) ['h', 'i'] ::
      .assign n (.pair (.name ['h', 'i']) (.name ['l', 'o'])) :: q) :
    ∃ e : Env, core.run 3 s = .next { s with env := e } ∧ e.hostQ = q ∧
      lookupName n e.names = some ((readLoc s (locOf (BitVec.ofInt 16 (off + 4)))).toNat * 2 ^ 32 +
        (readLoc s (locOf (BitVec.ofInt 16 off))).toNat : Int) := by
  obtain ⟨e₁, hstep₁, hq₁, hrst₁, hnames₁⟩ := step_read_idle hidle hrst hq
  obtain ⟨e₂, hstep₂, hq₂, hrst₂, hnames₂⟩ := step_read_idle (s := { s with env := e₁ }) hidle hrst₁ hq₁
  have hstep₃ := step_assign (hostTurn_of_idle (s := { s with env := e₂ }) hrst₂.rstHigh hidle) hq₂
  refine ⟨_, (run_succ hstep₁).trans ((run_succ hstep₂).trans (run_one hstep₃)), rfl, ?_⟩
  rw [readLoc_env] at hnames₂
  have hlo : lookupName ['l', 'o'] e₂.names = some ((readLoc s (locOf (BitVec.ofInt 16 off))).toNat : Int) := by
    rw [hnames₂, lookupName_bindName, if_neg (by decide), hnames₁]
    exact (lookupName_bindName ..).trans (if_pos rfl)
  have hhi : lookupName ['h', 'i'] e₂.names =
      some ((readLoc s (locOf (BitVec.ofInt 16 (off + 4)))).toNat : Int) := by
    rw [hnames₂]
    exact (lookupName_bindName ..).trans (if_pos rfl)
  refine (lookupName_bindName ..).trans ((if_pos rfl).trans ?_)
  simp only [HostExpr.eval, hlo, hhi, Option.getD_some]

/-! ### The statements -/

/-- Settles O56: `run_wait_command` while a command is in flight, then `step_wait_idle`. -/
theorem waitLoopEnds : Obligations.WaitLoopEnds := by
  intro s q hq hrst
  cases hbusy : s.status.busy with
  | false =>
    obtain ⟨e, hstep, hlist, hbus, hname⟩ := step_wait_idle hbusy hq (RstStaysHigh.rstHigh hrst)
    exact ⟨1, _, _, by omega, run_one hstep, hlist, hbus, (getLsbD_statusWord_busy s.status).trans hbusy, hname⟩
  | true =>
    obtain ⟨-, u, hrun, -, hidle, hq', hrst'⟩ := run_wait_command hbusy hq hrst
    obtain ⟨e, hstep, hlist, hbus, hname⟩ := step_wait_idle hidle hq' hrst'.rstHigh
    exact ⟨_, _, _, le_rfl, (run_add hrun 1).trans (run_one hstep), hlist, hbus,
      (getLsbD_statusWord_busy u.status).trans hidle, hname⟩

/-- Settles O57: the CMD write is accepted, the `wait` outlasts the engine step, and one more read of STATUS ends it. -/
theorem runLineExecutesTheCommand : Obligations.RunLineExecutesTheCommand := by
  intro s u line w i hmode hline hdecode hexpand hrst hexec
  obtain hq : s.env.hostQ = [.write (.num cmdOffset.toNat) (.num w.toNat), .wait] :=
    Option.some.inj (hexpand.symm.trans (run_expand hline))
  obtain ⟨e₁, hstep₁, hq₁, hrst₁⟩ := step_cmd_idle hmode (RstStaysHigh.rstHigh hrst) hq
  obtain ⟨e₂, v, hrun, hengine, hidle, hq₂, hrst₂⟩ := run_wait_command
    (s := { s with cmdLast := w, status := { s.status with busy := true, done := false }, env := e₁ }) rfl hq₁
    (RstStaysHigh.tail hrst hrst₁)
  have hexec₂ := (engineStep_of_decode (i := i) (by exact hdecode)).symm.trans hengine
  obtain rfl : v = { u with env := e₂ } := Host.Outcome.next.inj (hexec₂.symm.trans (exec_env hexec e₂))
  obtain ⟨e₃, hstep₃, hq₃, -⟩ := step_wait_idle hidle hq₂ hrst₂.rstHigh
  have hrest := (run_add hrun 1).trans (run_one hstep₃)
  have hall := (run_succ hstep₁).trans hrest
  exact ⟨_, _, hall, hq₃, rfl⟩

/-- Settles O59: `run_rd64`, and the two words of an entry are the whole of it. -/
theorem readPairBindsTheWholeEntry : Obligations.ReadPairBindsTheWholeEntry := by
  intro s off n ops q hidle hrst hexpand hq
  cases hexpand
  obtain ⟨e, hrun, hlist, hname⟩ := run_rd64 hidle hrst hq
  refine ⟨_, hrun, hlist, rfl, fun j hj => hname.trans ?_, fun k hk => hname.trans ?_⟩
  · subst hj
    have hlow : locOf (BitVec.ofInt 16 (0x2000 + 8 * j.val)) = .rem j false :=
      locOf_ofInt (by push_cast; rfl) (locOf_rem_low j.isLt)
    have hhigh : locOf (BitVec.ofInt 16 (0x2000 + 8 * j.val + 4)) = .rem j true :=
      locOf_ofInt (by push_cast; rfl) (locOf_rem_high j.isLt)
    rw [hlow, hhigh]
    exact congrArg some (toNat_words s.rem[j])
  · subst hk
    have hlow : locOf (BitVec.ofInt 16 (0x8000 + 8 * k.val)) = .acc k false :=
      locOf_ofInt (by push_cast; rfl) (locOf_acc_low k.isLt)
    have hhigh : locOf (BitVec.ofInt 16 (0x8000 + 8 * k.val + 4)) = .acc k true :=
      locOf_ofInt (by push_cast; rfl) (locOf_acc_high k.isLt)
    rw [hlow, hhigh]
    exact congrArg some (toNat_words s.acc[k])

end Sys2Proof.Proofs
